-- ==== Sys2Proof/Word.lean ====
section
/-! DEFINITION. The word types of the Vindak 416: what its frames carry as bits. -/

namespace Sys2Proof

/-- One payload byte of a frame (12_formats_and_pins.md, section 12.1). -/
abbrev Byte := BitVec 8

/-- The 16-bit tag that tells two units of one station number apart (R152). -/
abbrev Tag := BitVec 16

/-- A strap code, 0 to 31 (R150): the SB and SC codes that frames and rows carry. -/
abbrev Code := BitVec 5

/-- The sender field of a frame, five cells (section 5.2): 1 to 16 a station, 17 to 31 an observer. -/
abbrev Sender := BitVec 5

/-- A two-byte value of a READING record (section 12.1). -/
abbrev Half := BitVec 16

end Sys2Proof
end

