-- ==== Sys2Proof/Syntax.lean ====
section
/-! DEFINITION. The frames of SHL and the commands of the block: one constructor of Instr per row of spec/opcode_table.json.
The rows carry no fields; the operands are what the rules say the event brings with it (log 1). -/

namespace Sys2Proof

/-- The link states of a station (R58; codes in section 12.2). -/
inductive LinkState where
  | down | hailing | census | on | leaving | mute | barred
deriving DecidableEq, Repr

/-- The eight channels of the measurement scan (R112). -/
inductive Channel where
  | feedv | bayv | bayi | diet | pid | strapa | strapb | strapc
deriving DecidableEq, Repr

/-- How a conversion cycle ended (R116). -/
inductive Ending where
  | complete | limit
deriving DecidableEq, Repr

/-- The mode of a DEMAND frame (R61). -/
inductive Mode where
  | census | active
deriving DecidableEq, Repr

/-- The item a QUERY asks for (R158). -/
inductive Item where
  | status | row | reading
deriving DecidableEq, Repr

/-- The name of a charge phase as a STATUS record carries it (section 12.2). -/
inductive PhaseName where
  | vacant | qualify | precharge | fast | taper | done | hold | fault
deriving DecidableEq, Repr

/-- The fault cause as a STATUS record carries it (section 12.2). -/
inductive CauseName where
  | none | prechargeTimeout | chargeTimeout | bayOvervoltage | dieHot | packIdInvalid
deriving DecidableEq, Repr

/-- The row state as a ROW record carries it (section 12.2). -/
inductive RowName where
  | absent | joining | active | silent | disputed
deriving DecidableEq, Repr

/-- Payload of a JOIN frame (section 12.1). -/
structure JoinBody where
  tag : Tag
  sb : Code
  sc : Code
deriving DecidableEq, Repr

/-- Payload of a DEMAND frame (section 12.1); `quiet` is the quiet remaining in 100 ms steps. -/
structure DemandBody where
  tag : Tag
  sb : Code
  sc : Code
  mode : Mode
  demand : Byte
  stage : Byte
  quiet : Byte
deriving DecidableEq, Repr

/-- Payload of a LEAVE frame (section 12.1). -/
structure LeaveBody where
  tag : Tag
deriving DecidableEq, Repr

/-- Payload of a QUERY frame (section 12.1). -/
structure QueryBody where
  target : Byte
  item : Item
  index : Byte
deriving DecidableEq, Repr

/-- A STATUS record (R160; layout in section 12.1). -/
structure StatusRecord where
  link : LinkState
  phase : PhaseName
  cause : CauseName
  limit : Byte
  target : Byte
  lastAnnounced : Byte
  localDemand : Byte
  stage : Byte
  rowCount : Byte
  isolated : Bool
  stuck : Bool
  starved : Bool
  throttled : Bool
  foldback : Bool
deriving DecidableEq, Repr

/-- A ROW record (R161); the station is the index of the REPORT. -/
structure RowRecord where
  state : RowName
  sb : Code
  sc : Code
  demand : Byte
  grant : Byte
  frozen : Byte
  tag : Tag
  age : Byte
deriving DecidableEq, Repr

/-- A READING record (R162); the index of the REPORT is the channel's code. DIET values stand in two's complement. -/
structure ReadingRecord where
  channel : Channel
  count : Byte
  ending : Ending
  min : Half
  max : Half
  average : Half
  last : Half
deriving DecidableEq, Repr

/-- What a REPORT carries: its item, its index and the record (R159). -/
inductive ReportRecord where
  | status (index : Byte) (r : StatusRecord)
  | row (index : Byte) (r : RowRecord)
  | reading (r : ReadingRecord)
deriving DecidableEq, Repr

/-- Payload of a REPORT frame (R159). -/
structure ReportBody where
  requester : Sender
  content : ReportRecord
deriving DecidableEq, Repr

/-- The frame kinds without an assignment: 0, 4 and 7 (R90). -/
inductive UnassignedKind where
  | kind0 | kind4 | kind7
deriving DecidableEq, Repr

/-- The payload of a frame, by its kind (section 5.2). -/
inductive Payload where
  | join (b : JoinBody)
  | demand (b : DemandBody)
  | leave (b : LeaveBody)
  | query (b : QueryBody)
  | report (b : ReportBody)
  | unassigned (k : UnassignedKind) (bytes : List Byte)
deriving DecidableEq, Repr

/-- One frame on SHL: its sender and its payload (section 5.2). Kind, length and check follow from these. -/
structure Frame where
  sender : Sender
  payload : Payload
deriving DecidableEq, Repr

/-- One data cell as a party sees it on the wire, in nanoseconds (R80): how long the line is low from the falling edge
that begins the cell, and the time from that edge to the next falling edge. -/
structure CellSeen where
  low : Nat
  gap : Nat
deriving DecidableEq, Repr

/-- What this station saw of one frame before its veto window (R80, R81, R88), in nanoseconds: whether it had begun its own
start mark at the frame's falling edge, the start mark's low run, the time from the start mark's falling edge to that of the first
kind cell, and the data cells. A low run that begins in the veto window is no data cell (log 8). -/
structure Reception where
  sending : Bool
  startLow : Nat
  startGap : Nat
  cells : List CellSeen
deriving DecidableEq, Repr

/-- What one conversion of 25 microseconds brings: the analog input in the unit of the channel being converted (R112), and whether a falling
edge of SHL, of any party, came during it (R82; log 5). -/
structure ConversionInput where
  value : Int
  shlFell : Bool
deriving DecidableEq, Repr

/-- The commands of the block, one constructor per row of spec/opcode_table.json, in the table's order. -/
inductive Instr where
  | powerOn
  | conversion (input : ConversionInput)
  | shlIdle
  | join (sender : Sender) (body : JoinBody)
  | demand (sender : Sender) (body : DemandBody)
  | leave (sender : Sender) (body : LeaveBody)
  | query (sender : Sender) (body : QueryBody)
  | report (sender : Sender) (body : ReportBody)
  | unassignedKindFrame (kind : UnassignedKind) (sender : Sender) (bytes : List Byte)
  | frameVetoed (rx : Reception)
  | raiseHoldExpiry
  | enRise
  | enFall
  | almFallingEdge
  | almRisingEdge
  | almDriveEnd
  | rearmTimerExpiry
  | lowTimerExpiry
  | quietTimerExpiry
  | censusTimerExpiry
  | heartbeatTimerExpiry
  | spacingTimerExpiry
  | isolationTimerExpiry
  | leaveTimerExpiry
  | muteTimerExpiry
  | rowSilence (station : Nat)
  | silentRowRelease (station : Nat)
  | disputedRowRelease (station : Nat)
  | prechargeCreditExpiry
  | chargeCreditExpiry
  | statPatternStep
  | supplyMonitorReset
  | admissionOnQuietLine
deriving DecidableEq, Repr

end Sys2Proof
end

