-- ==== Sys2Proof/Decode.lean ====
section
/-! DEFINITION. The commands of spec/opcode_table.json that a word of bits spells: none, for no row of the table gives bits
(log 22). The bits that SHL carries are those of frames: Machine/Formats.lean. -/

namespace Sys2Proof

/-- No row of spec/opcode_table.json gives bits, so no word spells a command. -/
def decodeTableWord (nbits w : Nat) : Option Instr :=
  match nbits, w with
  | _, _ => none

end Sys2Proof
end

