-- ==== Sys2Proof/Config.lean ====
section
/-! DEFINITION. What a unit or an implementation fixes and the spec leaves open: uninterpreted constants, of which nothing
can be proved but what holds of every value. -/

namespace Sys2Proof

/-- The serial fuses of the unit, taken at manufacture (R152: "any 16-bit value, 0000h included").
DESIGN CHOICE, log 11: State.reset starts from this constant; no statement rests on its value. -/
opaque Config.serialFuses : Tag

/-- FREE VALUE, log 9. The n-th time that one accepted DEMAND both changes the table and raises the cap stage: does the feed
watch take it before the share table? R36 and R93 leave the order open, and what the commit unit receives in between differs with it. -/
opaque Config.adoptionFirst : Nat → Bool

end Sys2Proof
end

