-- ==== Sys2Proof/Machine/State.lean ====
section
/-! DEFINITION. The state of one Vindak 416 as plain data, one structure per block, and the state after reset.
INVENTORY.md lists every field with the rule that names it and its reset value. -/

namespace Sys2Proof.Machine

/-- No command of the block stops it: bad frames are vetoed (R89), invalid straps lead to BARRED (R59), and a bay fault is a
charge phase (R136). So there is no fault to name, and nothing raises one (safe). -/
inductive Fault where
deriving DecidableEq, Repr

/-- Why a step is refused. -/
inductive Refusal where
  /-- A command that has no meaning yet, by its mnemonic; raised by an arm of exec only (safe: the model stops). No arm raises it. -/
  | notModelled (mnemonic : String)
deriving DecidableEq, Repr

/-- A timer: idle, or running with the time left, in conversions of 25 microseconds (log 2). -/
inductive Timer where
  | idle
  | running (left : Nat)
deriving DecidableEq, Repr

/-- Whether the supply monitor holds the part in power-on reset (R58, R122). -/
inductive Power where
  | released | held
deriving DecidableEq, Repr

/-- The digital pins of the outside world as this station sees them (section 12.5). -/
structure Pins where
  en : Bool
  almHigh : Bool
deriving DecidableEq, Repr

/-- SHL as this station knows it: whether the line is idle (R82), and the frame of its own that it has begun there and of whose end no command
has told (R60). Whether it still drives that frame or has lost, the cells on the wire decide (State.shlDrives). -/
structure Wire where
  idle : Bool
  tx : Option Frame
deriving DecidableEq, Repr

/-- What the strap decoder holds of one strap after its record (R150). -/
structure StrapResult where
  code : Code
  stable : Bool
deriving DecidableEq, Repr

/-- The strap decoder between the records of the strap pass (R150, R151). -/
structure StrapDecoder where
  sa : Option StrapResult
  sb : Option StrapResult
deriving DecidableEq, Repr

/-- The configuration record (R152). Class, fast code, capacity code, profile and the derived values are functions of the codes. -/
structure ConfigRecord where
  station : Option Nat
  tag : Tag
  sb : Code
  sc : Code
deriving DecidableEq, Repr

/-- The positions of the strap pass (R120) and of the running scan list (R117). -/
inductive ScanPos where
  | s1 | s2 | s3 | p1 | p2 | p3 | p4 | p5 | p6 | p7 | p8
deriving DecidableEq, Repr

/-- The accumulators of the running conversion cycle (R114). -/
structure Accumulators where
  count : Nat
  min : Int
  max : Int
  sum : Int
  last : Int
deriving DecidableEq, Repr

/-- The measurement scan (R114, R121): position, accumulators and the overvoltage limit it took at the end of the strap pass;
before that none is held (DESIGN CHOICE, log 32). -/
structure Scan where
  pos : ScanPos
  acc : Accumulators
  overvoltage : Option Int
deriving DecidableEq, Repr

/-- A reading record (R116). -/
structure Reading where
  channel : Channel
  count : Nat
  min : Int
  max : Int
  average : Int
  last : Int
  ending : Ending
deriving DecidableEq, Repr

/-- The reading store: the latest record of each channel, or nothing (R118). -/
structure ReadingStore where
  feedv : Option Reading
  bayv : Option Reading
  bayi : Option Reading
  diet : Option Reading
  pid : Option Reading
  strapa : Option Reading
  strapb : Option Reading
  strapc : Option Reading
deriving DecidableEq, Repr

/-- The feed watch (R99). -/
structure FeedWatch where
  droop : Nat
  drive : Timer
  rearm : Timer
  tracking : Bool
  low : Timer
  stuck : Bool
  stage : Nat
  quiet : Timer
deriving DecidableEq, Repr

/-- A JOIN or LEAVE slot of the transmit queue (R60). -/
inductive Slot where
  | empty | waiting | onLine
deriving DecidableEq, Repr

/-- The DEMAND slot; while its frame is on the line it may carry the renewed mark (R60, R67). -/
inductive DemandSlot where
  | empty | waiting
  | onLine (renewed : Bool)
deriving DecidableEq, Repr

/-- The transmit queue (R60). `reports` holds the filled REPORT slots, oldest first; `reportOnLine` says the oldest is on the line. -/
structure TxQueue where
  join : Slot
  demand : DemandSlot
  leave : Slot
  reports : List ReportBody
  reportOnLine : Bool
deriving DecidableEq, Repr

/-- The six timers of station life (R58). -/
structure LifeTimers where
  census : Timer
  heartbeat : Timer
  spacing : Timer
  isolation : Timer
  leave : Timer
  mute : Timer
deriving DecidableEq, Repr

/-- The share line interface (R58; admission R83; veto run R95). -/
structure ShareLine where
  link : LinkState
  admitted : Bool
  queue : TxQueue
  vetoRun : Nat
  timers : LifeTimers
  lastAnnounced : Nat
  isolated : Bool
deriving DecidableEq, Repr

/-- The state of a row with the fields that exist only in it (R2, R3): grant and starved mark of a live row (R24), frozen grant of
a reserved one, dispute age (in conversions of 25 microseconds) of a DISPUTED one. -/
inductive RowStatus where
  | joining (grant : Nat) (starved : Bool)
  | active (grant : Nat) (starved : Bool)
  | silent (frozen : Nat)
  | disputed (frozen : Nat) (disputeAge : Nat)
deriving DecidableEq, Repr

/-- A row of the share table (R2); the age in conversions of 25 microseconds. -/
structure Row where
  station : Nat
  status : RowStatus
  tag : Tag
  sb : Code
  sc : Code
  demand : Nat
  age : Nat
deriving DecidableEq, Repr

/-- The commit unit (R42): own target T, committed limit L, raise hold. -/
structure CommitUnit where
  target : Nat
  limit : Nat
  hold : Timer
deriving DecidableEq, Repr

/-- The phases in which the bay charges (R135), which are also the return phases of HOLD (R125). -/
inductive ChargePhase where
  | precharge | fast | taper
deriving DecidableEq, Repr

/-- The fault causes (R136); CHARGE_TIMEOUT with its full-at-timeout flag, which exists only with it (R144). -/
inductive FaultCause where
  | prechargeTimeout
  | chargeTimeout (full : Bool)
  | bayOvervoltage
  | dieHot
  | packIdInvalid
deriving DecidableEq, Repr

/-- The charge phase (R125): HOLD with the phase it returns to, FAULT with its cause. -/
inductive Phase where
  | vacant
  | qualify
  | charging (c : ChargePhase)
  | done
  | hold (back : ChargePhase)
  | fault (cause : FaultCause)
deriving DecidableEq, Repr

/-- The class of a PID record (R126). -/
inductive PidClass where
  | openPin | valid | short
deriving DecidableEq, Repr

/-- Whether a credit timer runs (R140). -/
inductive CreditRun where
  | running | paused | stopped
deriving DecidableEq, Repr

/-- A credit timer: seconds of credit, exactly, and whether it runs (R140, R142). -/
structure Credit where
  seconds : Rat
  run : CreditRun
deriving DecidableEq, Repr

/-- The bay controller (R125, R140). -/
structure BayController where
  phase : Phase
  localDemand : Nat
  taperValue : Nat
  termCount : Nat
  prevPid : Option PidClass
  foldback : Bool
  precharge : Credit
  charge : Credit
deriving DecidableEq, Repr

/-- The STAT patterns (R156). -/
inductive Pattern where
  | off | steady | blink1 | blink4 | twoPulses | threePulses
deriving DecidableEq, Repr

/-- The STAT output (R156): the pattern, which of its intervals is shown, and the time left of that interval. -/
structure StatOutput where
  pattern : Pattern
  position : Nat
  left : Timer
deriving DecidableEq, Repr

/-- One station: its power, fuses and pins, its nine blocks, and the two fields that are the model's own: the counter of free
choices (log 9) and the queue of waiting commands. -/
structure State where
  power : Power
  fuses : Tag
  tag : Tag
  pins : Pins
  wire : Wire
  straps : StrapDecoder
  config : Option ConfigRecord
  scan : Scan
  store : ReadingStore
  feed : FeedWatch
  line : ShareLine
  table : List Row
  commit : CommitUnit
  bay : BayController
  stat : StatOutput
  choices : Nat
  pending : List Instr
deriving DecidableEq, Repr

/-- A cycle that has taken no sample (R114). -/
def Accumulators.start : Accumulators := { count := 0, min := 0, max := 0, sum := 0, last := 0 }

/-- The reading store at power-on: every entry empty (R118). -/
def ReadingStore.empty : ReadingStore :=
  { feedv := none, bayv := none, bayi := none, diet := none, pid := none, strapa := none, strapb := none, strapc := none }

/-- The transmit queue with every slot empty (R58, R62). -/
def TxQueue.empty : TxQueue :=
  { join := .empty, demand := .empty, leave := .empty, reports := [], reportOnLine := false }

/-- Every timer of R58 idle. -/
def LifeTimers.allIdle : LifeTimers :=
  { census := .idle, heartbeat := .idle, spacing := .idle, isolation := .idle, leave := .idle, mute := .idle }

/-- A credit at 0 and stopped (R140). -/
def Credit.zero : Credit := { seconds := 0, run := .stopped }

/-- The measurement scan at power-on: before the first conversion of position S1 (R120), with no overvoltage limit taken (DESIGN CHOICE, log 32). -/
def Scan.atPowerOn : Scan := { pos := .s1, acc := .start, overvoltage := none }

/-- The feed watch at power-on (R99). -/
def FeedWatch.atPowerOn : FeedWatch :=
  { droop := 0, drive := .idle, rearm := .idle, tracking := false, low := .idle, stuck := false, stage := 0, quiet := .idle }

/-- The share line interface at power-on (R58). -/
def ShareLine.atPowerOn : ShareLine :=
  { link := .down, admitted := false, queue := .empty, vetoRun := 0, timers := .allIdle, lastAnnounced := 0, isolated := false }

/-- The commit unit at power-on (R42). -/
def CommitUnit.atPowerOn : CommitUnit := { target := 0, limit := 0, hold := .idle }

/-- The bay controller at power-on (R125). -/
def BayController.atPowerOn : BayController :=
  { phase := .vacant, localDemand := 0, taperValue := 0, termCount := 0, prevPid := none, foldback := false,
    precharge := .zero, charge := .zero }

/-- The STAT output at power-on: off (R156). -/
def StatOutput.atPowerOn : StatOutput := { pattern := .off, position := 0, left := .idle }

/-- The machine right after power-on reset: released, every block at the value the spec gives, the strap pass about to begin
(R58, R120; log 13). Pins, line and fuses are the outside world's: DESIGN CHOICE, logs 11 and 12. -/
def State.reset : State :=
  { power := .released
    fuses := Config.serialFuses
    tag := Config.serialFuses
    pins := { en := false, almHigh := true }
    wire := { idle := false, tx := none }
    straps := { sa := none, sb := none }
    config := none
    scan := .atPowerOn
    store := .empty
    feed := .atPowerOn
    line := .atPowerOn
    table := []
    commit := .atPowerOn
    bay := .atPowerOn
    stat := .atPowerOn
    choices := 0
    pending := [] }

end Sys2Proof.Machine
end

