-- ==== Sys2Proof/Machine/Codes.lean ====
section
/-! DEFINITION. What the strap codes mean: the band rule, the fields decoded from SB and SC, and the derived values (R150 to R153). -/

namespace Sys2Proof.Machine

/-- The code of a strap reading of v mV: band v / 75, and 31 above 2,399 mV (R150). -/
def strapCode (v : Int) : Code :=
  if 2399 < v then 31 else BitVec.ofNat 5 (v.toNat / 75)

/-- What the decoder works out of one strap record: the code of its average, and whether min and max decode alike (R150). -/
def strapResult (r : Reading) : StrapResult :=
  { code := strapCode r.average, stable := strapCode r.min == strapCode r.max }

/-- The class, SB code / 8 (R152). -/
def classOf (sb : Code) : Nat := sb.toNat / 8

/-- The fast code, SB code mod 8 (R152). -/
def fastCodeOf (sb : Code) : Nat := sb.toNat % 8

/-- The capacity code, SC code mod 16 (R152). -/
def capacityCodeOf (sc : Code) : Nat := sc.toNat % 16

/-- The profile, SC code / 16 (R152). -/
def profileOf (sc : Code) : Nat := sc.toNat / 16

/-- The feed capacity in units, 40 x (capacity code + 1) (R26, R153). -/
def feedCapacityOf (sc : Code) : Nat := 40 * (capacityCodeOf sc + 1)

/-- The fast current in units, 20 x (fast code + 1) (R153). -/
def ConfigRecord.fast (c : ConfigRecord) : Nat := 20 * (fastCodeOf c.sb + 1)

/-- The precharge current in units: fast / 10 rounded down, at least 2 (R132, R153). -/
def ConfigRecord.prechargeCurrent (c : ConfigRecord) : Nat := max (c.fast / 10) 2

/-- The termination current in mA: fast current / 10 (R153). -/
def ConfigRecord.termination (c : ConfigRecord) : Int := (c.fast * 25 / 10 : Nat)

/-- The foldback cap in units: half the fast current (R153). -/
def ConfigRecord.foldbackCap (c : ConfigRecord) : Nat := c.fast / 2

/-- The regulation voltage in mV, by the profile (R153). -/
def ConfigRecord.regulation (c : ConfigRecord) : Int := if profileOf c.sc = 0 then 4200 else 4350

/-- The taper entry in mV (R153). -/
def ConfigRecord.taperEntry (c : ConfigRecord) : Int := c.regulation - 50

/-- The recharge threshold in mV (R153). -/
def ConfigRecord.recharge (c : ConfigRecord) : Int := c.regulation - 100

/-- The overvoltage limit in mV (R153). -/
def ConfigRecord.overvoltage (c : ConfigRecord) : Int := c.regulation + 100

/-- The record loaded when the straps are invalid: no station number, codes 0, the tag of the fuses (R152). -/
def ConfigRecord.fixed (tag : Tag) : ConfigRecord := { station := none, tag := tag, sb := 0, sc := 0 }

/-- The judgement of the strap pass (R151): all three stable and SA from 1 to 16. -/
def strapsValid (sa sb sc : StrapResult) : Bool :=
  sa.stable && sb.stable && sc.stable && decide (1 ≤ sa.code.toNat ∧ sa.code.toNat ≤ 16)

/-- The record that the end of the strap pass loads (R151, R152). A strap without a result is not stable. -/
def loadConfig (tag : Tag) (sa sb : Option StrapResult) (sc : StrapResult) : ConfigRecord :=
  match sa, sb with
  | some a, some b =>
    if strapsValid a b sc then { station := some a.code.toNat, tag := tag, sb := b.code, sc := sc.code } else .fixed tag
  | _, _ => .fixed tag

end Sys2Proof.Machine
end

