-- ==== Sys2Proof/Machine/Units.lean ====
section
/-! DEFINITION. Time and current in the model's units, the timer settings of the chapters, and what a timer does. -/

namespace Sys2Proof.Machine

/-- Milliseconds in conversions of 25 microseconds (R113; log 2). -/
def ms (n : Nat) : Nat := 40 * n

/-- The floor: 4 units, 100 mA (00_scope.md, R29). -/
def floorUnits : Nat := 4

/-- The raise hold, 250 ms (R42). -/
def raiseHoldMs : Nat := 250
/-- The census timer, 5,000 ms (R58). -/
def censusMs : Nat := 5000
/-- The heartbeat timer, 500 ms (R58). -/
def heartbeatMs : Nat := 500
/-- The spacing timer, 100 ms (R58). -/
def spacingMs : Nat := 100
/-- The isolation timer, 1,200 ms (R58). -/
def isolationMs : Nat := 1200
/-- The leave timer, 200 ms (R58). -/
def leaveMs : Nat := 200
/-- The mute timer, 1,000 ms (R58). -/
def muteMs : Nat := 1000
/-- The length of an ALM pulse, 2 ms (R102). -/
def almDriveMs : Nat := 2
/-- The re-arm timer, 50 ms (R101). -/
def rearmMs : Nat := 50
/-- The low timer, 20 ms (R104). -/
def lowMs : Nat := 20
/-- The quiet timer, 10,000 ms (R104). -/
def quietMs : Nat := 10000
/-- The age at which a live row falls silent, 1,500 ms (R12). -/
def silenceMs : Nat := 1500
/-- The age, or dispute age, at which a reserved row is released, 5,000 ms (R13, R14). -/
def releaseMs : Nat := 5000

/-- The veto run count that mutes a station (R73). -/
def vetoRunLimit : Nat := 8
/-- The REPORT slots (R60). -/
def reportSlots : Nat := 4

/-- The setting of the precharge credit, in seconds (R140). -/
def prechargeSetting : Rat := 1800
/-- The setting of the charge credit, in seconds (R140). -/
def chargeSetting : Rat := 14400
/-- One conversion of 25 microseconds, in seconds (R113). -/
def conversionSeconds : Rat := 1 / 40000

/-- A timer started or restarted with its full setting (R58). -/
def Timer.start (settingMs : Nat) : Timer := .running (ms settingMs)

/-- One conversion passes (log 2). -/
def Timer.tick : Timer → Timer
  | .idle => .idle
  | .running left => .running (left - 1)

/-- The timer runs, with whatever time left. -/
def Timer.isRunning : Timer → Bool
  | .idle => false
  | .running _ => true

/-- The timer has run out: it runs with no time left. Only then is there an expiry (log 3). -/
def Timer.due : Timer → Bool
  | .idle => false
  | .running left => left == 0

/-- A timer that a record starts, at the end of a conversion, runs out at the end of one: it is due from the conversion under way in which it
does, so that its expiry may come before or after the record of that conversion (log 3). -/
def Timer.dueByEnd : Timer → Bool
  | .idle => false
  | .running left => decide (left ≤ 1)

/-- The remaining time in steps of 100 ms, rounded up; 0 when idle (R109). -/
def Timer.hundredMs : Timer → Nat
  | .idle => 0
  | .running left => (left + (ms 100 - 1)) / ms 100

end Sys2Proof.Machine
end

