-- ==== Sys2Proof/Machine/ShareRule.lean ====
section
/-! DEFINITION. The share rule: the grants and starved marks of the live rows from the table and the cap stage, and whether a
recompute was lowering (chapter 2; R24 to R37). -/

namespace Sys2Proof.Machine

/-! ### What the rule reads of a row -/

/-- JOINING and ACTIVE rows are live (R3). -/
def Row.live (r : Row) : Bool :=
  match r.status with
  | .joining _ _ | .active _ _ => true
  | .silent _ | .disputed _ _ => false

/-- ACTIVE rows alone take part in the sharing of excess (R31). -/
def Row.isActive (r : Row) : Bool :=
  match r.status with
  | .active _ _ => true
  | .joining _ _ | .silent _ | .disputed _ _ => false

/-- The grant field: 0 for a reserved row (R2). -/
def Row.grant (r : Row) : Nat :=
  match r.status with
  | .joining g _ | .active g _ => g
  | .silent _ | .disputed _ _ => 0

/-- The frozen grant: none, read as 0, for a live row (R2, R23). -/
def Row.frozen (r : Row) : Nat :=
  match r.status with
  | .joining _ _ | .active _ _ => 0
  | .silent f | .disputed f _ => f

/-- The starved mark: none for a reserved row (R24). -/
def Row.starved (r : Row) : Bool :=
  match r.status with
  | .joining _ m | .active _ m => m
  | .silent _ | .disputed _ _ => false

/-- The class of a row (R2). -/
def Row.classNo (r : Row) : Nat := classOf r.sb

/-- The share rule writes grant and starved mark of a live row, and nothing of a reserved one (R24). -/
def Row.setGrant (r : Row) (grant : Nat) (starved : Bool) : Row :=
  match r.status with
  | .joining _ _ => { r with status := .joining grant starved }
  | .active _ _ => { r with status := .active grant starved }
  | .silent _ | .disputed _ _ => r

/-- The live rows of a table, in station order. -/
def liveRows (rows : List Row) : List Row := rows.filter Row.live

/-! ### Capacity (R26 to R28) -/

/-- The capacity basis: the smallest feed capacity among the live rows, nothing when there is none (R26). -/
def capacityBasis (rows : List Row) : Option Nat := ((liveRows rows).map (fun r => feedCapacityOf r.sc)).min?

/-- The share of the feed treated as usable, in percent (R27). -/
def stagePercent (stage : Nat) : Nat :=
  match stage with
  | 0 => 100
  | 1 => 75
  | _ => 50

/-- The effective capacity, rounded down (R27). -/
def effectiveCapacity (basis stage : Nat) : Nat := basis * stagePercent stage / 100

/-- The frozen reservation: the sum of the frozen grants of the reserved rows (R28). -/
def frozenReservation (rows : List Row) : Nat := (rows.map Row.frozen).sum

/-! ### Floors (R29, R30) -/

/-- The live rows in floor order: ascending class, and station order within a class (R29). -/
def floorOrder (rows : List Row) : List Row :=
  (List.range 4).flatMap fun c => (liveRows rows).filter fun r => r.classNo == c

/-- A live row on its way through a recompute: its floor part, whether it is starved, and the excess given so far. -/
structure Claim where
  row : Row
  floor : Nat
  starved : Bool
  excess : Nat
deriving DecidableEq, Repr

/-- The floor visit: 4 units while the remainder is 4 or more, otherwise starved (R29). Answers the claims and what is left. -/
def giveFloors : List Row → Nat → List Claim × Nat
  | [], left => ([], left)
  | r :: rs, left =>
    if floorUnits ≤ left then
      let rest := giveFloors rs (left - floorUnits)
      ({ row := r, floor := floorUnits, starved := false, excess := 0 } :: rest.1, rest.2)
    else
      let rest := giveFloors rs left
      ({ row := r, floor := 0, starved := true, excess := 0 } :: rest.1, rest.2)

/-! ### Excess (R31 to R33) -/

/-- The excess a row may take: demand - 4 of an ACTIVE row that is not starved, and none for any other (R31). -/
def Claim.want (c : Claim) : Nat := if c.row.isActive && !c.starved then c.row.demand - floorUnits else 0

/-- A row is unsatisfied until it has received its excess (R31). -/
def Claim.unsatisfied (c : Claim) : Bool := decide (c.excess < c.want)

/-- One even round: every unsatisfied row receives s units, or what it still lacks if that is less (R32). -/
def evenShare (s : Nat) (c : Claim) : Claim :=
  if c.unsatisfied then { c with excess := c.excess + min s (c.want - c.excess) } else c

/-- The units given so far to a list of claims as excess. -/
def excessTotal (cs : List Claim) : Nat := (cs.map Claim.excess).sum

/-- The odd units: one to each unsatisfied row in station order until none is left (R33). -/
def oddUnits : List Claim → Nat → List Claim
  | [], _ => []
  | c :: cs, left =>
    if c.unsatisfied && decide (0 < left) then { c with excess := c.excess + 1 } :: oddUnits cs (left - 1)
    else c :: oddUnits cs left

/-- The rounds of one class (R32, R33). At most as many as its rows, plus one, so that much fuel always suffices. -/
def classRounds : Nat → List Claim → Nat → List Claim × Nat
  | 0, cs, left => (cs, left)
  | fuel + 1, cs, left =>
    let n := cs.countP Claim.unsatisfied
    if n = 0 ∨ left = 0 then (cs, left)
    else
      let s := left / n
      if s = 0 then (oddUnits cs left, 0)
      else
        let cs' := cs.map (evenShare s)
        classRounds fuel cs' (left - (excessTotal cs' - excessTotal cs))

/-- One class after the other, the remainder passing on (R31). -/
def shareClasses : List Nat → List Claim → Nat → List Claim
  | [], _, _ => []
  | k :: ks, cs, left =>
    let mine := cs.filter fun c => c.row.classNo == k
    let r := classRounds (mine.length + 1) mine left
    r.1 ++ shareClasses ks cs r.2

/-! ### The recompute (R24 to R34) -/

/-- The remainder shared among the live rows: C_eff - S_f, and 0 when that is below 0 (R28). -/
def startingRemainder (rows : List Row) (stage basis : Nat) : Nat := effectiveCapacity basis stage - frozenReservation rows

/-- Every live row with its floor part and its excess. -/
def allClaims (rows : List Row) (stage basis : Nat) : List Claim :=
  let floors := giveFloors (floorOrder rows) (startingRemainder rows stage basis)
  shareClasses (List.range 4) floors.1 floors.2

/-- A claim's result written into its row (R34). -/
def writeClaim (cs : List Claim) (r : Row) : Row :=
  match cs.find? (fun c => c.row.station == r.station) with
  | some c => r.setGrant (c.floor + c.excess) c.starved
  | none => r

/-- The table after a recompute: every live row written afresh, every reserved row as it was (R24, R26). -/
def recomputeRows (rows : List Row) (stage : Nat) : List Row :=
  match capacityBasis rows with
  | none => rows
  | some basis => rows.map (writeClaim (allClaims rows stage basis))

/-- A row of the table before, live then and live now with a smaller grant (R37). -/
def loweredIn (after : List Row) (old : Row) : Bool :=
  old.live && after.any fun r => r.station == old.station && r.live && decide (r.grant < old.grant)

/-- A recompute is lowering when at least one row live both before and after it holds a smaller grant after it (R37). -/
def isLowering (before after : List Row) : Bool := before.any (loweredIn after)

end Sys2Proof.Machine
end

