-- ==== Sys2Proof/Machine/Table.lean ====
section
/-! DEFINITION. The share table as a list of rows: finding, placing and removing a row, what each frame and each expiry does to one
row, and which changes are handed to the share rule (chapter 1; R1 to R16). -/

namespace Sys2Proof.Machine

/-- The row of a station, or nothing where it is absent (R1). -/
def findRow (n : Nat) (rows : List Row) : Option Row := rows.find? fun r => r.station == n

/-- The table with the row of station n replaced, placed in station order, or removed (R1). -/
def putRow (n : Nat) (new : Option Row) : List Row → List Row
  | [] => new.toList
  | r :: rs =>
    if r.station < n then r :: putRow n new rs
    else if r.station = n then new.toList ++ rs
    else new.toList ++ r :: rs

/-- A row lies within its ranges (R1, R2). -/
def Row.wf (r : Row) : Bool :=
  decide (1 ≤ r.station ∧ r.station ≤ 16 ∧ r.demand ≤ 160 ∧ r.grant ≤ 160 ∧ r.frozen ≤ 160 ∧ r.age ≤ ms releaseMs) &&
    match r.status with
    | .disputed _ d => decide (d ≤ ms releaseMs)
    | .joining _ _ => decide (r.demand = 0)
    | .active _ _ | .silent _ => true

/-- The table's form: rows in strictly ascending station order, each within its ranges (R1, R2). -/
abbrev tableWf (rows : List Row) : Prop := rows.Pairwise (fun a b => a.station < b.station) ∧ ∀ r ∈ rows, r.wf = true

/-- A row as a frame creates it (R6, R7, R8): the frame's tag and codes, age 0. Its grant is written by the recompute that follows. -/
def newRow (n : Nat) (status : RowStatus) (tag : Tag) (sb sc : Code) (demand : Nat) : Row :=
  { station := n, status := status, tag := tag, sb := sb, sc := sc, demand := demand, age := 0 }

/-- A DISPUTED row takes any frame of its number by setting its ages to 0 (R10). -/
def Row.stillDisputed (r : Row) (frozen : Nat) : Row := { r with status := .disputed frozen 0, age := 0 }

/-- A JOINING, ACTIVE or SILENT row becomes DISPUTED: its grant, or the frozen grant it already held, is frozen (R10). -/
def Row.dispute (r : Row) : Row :=
  match r.status with
  | .joining g _ | .active g _ => { r with status := .disputed g 0, age := 0 }
  | .silent f | .disputed f _ => { r with status := .disputed f 0, age := 0 }

/-- An accepted JOIN of station n on its row (R6). -/
def joinRow (n : Nat) (b : JoinBody) (old : Option Row) : Option Row :=
  match old with
  | none => some (newRow n (.joining 0 false) b.tag b.sb b.sc 0)
  | some r =>
    match r.status with
    | .disputed f _ => some (r.stillDisputed f)
    | .joining _ _ | .active _ _ | .silent _ =>
      some { r with status := .joining r.grant r.starved, tag := b.tag, sb := b.sb, sc := b.sc, demand := 0, age := 0 }

/-- An accepted DEMAND of station n on its row, by its mode (R7, R8). -/
def demandRow (n : Nat) (b : DemandBody) (old : Option Row) : Option Row :=
  match old with
  | none =>
    match b.mode with
    | .census => some (newRow n (.joining 0 false) b.tag b.sb b.sc 0)
    | .active => some (newRow n (.active 0 false) b.tag b.sb b.sc b.demand.toNat)
  | some r =>
    match r.status with
    | .disputed f _ => some (r.stillDisputed f)
    | .joining _ _ | .active _ _ | .silent _ =>
      if r.tag = b.tag then
        match b.mode with
        | .census => some { r with status := .joining r.grant r.starved, sb := b.sb, sc := b.sc, demand := 0, age := 0 }
        | .active => some { r with status := .active r.grant r.starved, sb := b.sb, sc := b.sc, demand := b.demand.toNat, age := 0 }
      else some r.dispute

/-- An accepted LEAVE of a station on its row (R9). -/
def leaveRow (b : LeaveBody) (old : Option Row) : Option Row :=
  match old with
  | none => none
  | some r =>
    match r.status with
    | .disputed f _ => some (r.stillDisputed f)
    | .joining _ _ | .active _ _ | .silent _ => if r.tag = b.tag then none else some r.dispute

/-- A row whose age has reached 1,500 ms becomes SILENT with its grant frozen; its age runs on (R12). -/
def silenceRow (r : Row) : Row :=
  match r.status with
  | .joining g _ | .active g _ => { r with status := .silent g }
  | .silent _ | .disputed _ _ => r

/-- A live row of age 1,500 ms is due to fall SILENT (R12; log 3). -/
def Row.silenceDue (r : Row) : Bool :=
  match r.status with
  | .joining _ _ | .active _ _ => decide (ms silenceMs ≤ r.age)
  | .silent _ | .disputed _ _ => false

/-- A SILENT row of age 5,000 ms is due for release (R13; log 3). -/
def Row.silentReleaseDue (r : Row) : Bool :=
  match r.status with
  | .silent _ => decide (ms releaseMs ≤ r.age)
  | .joining _ _ | .active _ _ | .disputed _ _ => false

/-- A DISPUTED row of dispute age 5,000 ms is due for release (R14; log 3). -/
def Row.disputedReleaseDue (r : Row) : Bool :=
  match r.status with
  | .disputed _ d => decide (ms releaseMs ≤ d)
  | .joining _ _ | .active _ _ | .silent _ => false

/-- The name of a row's state (section 12.2). -/
def Row.name (r : Row) : RowName :=
  match r.status with
  | .joining _ _ => .joining
  | .active _ _ => .active
  | .silent _ => .silent
  | .disputed _ _ => .disputed

/-- A change of one row is handed to the share rule when the row is created or removed, changes state, demand, class or capacity
code, and not otherwise (R16). -/
def handedOn (old new : Option Row) : Bool :=
  match old, new with
  | none, none => false
  | none, some _ => true
  | some _, none => true
  | some a, some b =>
    a.name != b.name || a.demand != b.demand || a.classNo != b.classNo || capacityCodeOf a.sc != capacityCodeOf b.sc

/-- One conversion passes: the ages run on, up to the 5,000 ms at which a row is released (R2; log 15). -/
def ageRow (r : Row) : Row :=
  let r' := { r with age := min (r.age + 1) (ms releaseMs) }
  match r.status with
  | .disputed f d => { r' with status := .disputed f (min (d + 1) (ms releaseMs)) }
  | .joining _ _ | .active _ _ | .silent _ => r'

end Sys2Proof.Machine
end

