-- ==== Sys2Proof/Machine/Flags.lean ====
section
/-! DEFINITION. What is worked out from the state and not held: the currents of the bay, the throttled and starved conditions, the
own target, when a demand change is due, where the station takes part on SHL, and the STAT pattern. -/

namespace Sys2Proof.Machine

/-- The configuration every block reads (R152). Before the strap pass ends no block reads it (R154); the fixed values stand there (log 23). -/
def State.cfg (s : State) : ConfigRecord := s.config.getD (.fixed s.tag)

/-- The own station number: none before the end of the strap pass and with invalid straps (R152). -/
def State.ownNumber (s : State) : Option Nat := s.config.bind ConfigRecord.station

/-- The own row (R17, R18). -/
def State.ownRow (s : State) : Option Row := s.ownNumber.bind fun n => findRow n s.table

/-- A sender field that is the own station number (R74). -/
def State.isOwnSender (s : State) (sender : Sender) : Bool := s.ownNumber == some sender.toNat

/-- CENSUS and ON, in which the station is counted in the rack (R38, R101, R158). -/
def LinkState.counted : LinkState → Bool
  | .census | .on => true
  | .down | .hailing | .leaving | .mute | .barred => false

/-- The states in which the commit unit takes ALM edges (R48, R49). -/
def LinkState.takesAlarm : LinkState → Bool
  | .hailing | .census | .on | .leaving => true
  | .down | .mute | .barred => false

/-- The station receives, checks, vetoes, accepts and may begin frames: HAILING once admitted, CENSUS, ON and LEAVING (R96). -/
def State.takesLine (s : State) : Bool :=
  match s.line.link with
  | .hailing => s.line.admitted
  | .census | .on | .leaving => true
  | .down | .mute | .barred => false

/-- The own target: the grant of the own row in CENSUS and ON, and 0 otherwise (R38). -/
def State.ownTarget (s : State) : Nat :=
  if LinkState.counted s.line.link then (s.ownRow.map Row.grant).getD 0 else 0

/-- The starved flag: the mark of the own row while it exists and is live (R39). -/
def State.starvedFlag (s : State) : Bool := (s.ownRow.map Row.starved).getD false

/-! ### The bay (R56, R132, R133) -/

/-- The phase current in units: 0 outside PRECHARGE, FAST and TAPER (R132). -/
def phaseCurrent (c : ConfigRecord) : Phase → Nat
  | .charging .precharge => c.prechargeCurrent
  | .charging .fast | .charging .taper => c.fast
  | .vacant | .qualify | .done | .hold _ | .fault _ => 0

/-- The value limited to the foldback cap while foldback is set (R129, R133). -/
def capped (c : ConfigRecord) (foldback : Bool) (units : Nat) : Nat := if foldback then min units c.foldbackCap else units

/-- The bay current limit in units, from L, the phase current and the foldback cap; 0 outside the charging phases (R56, R132). -/
def bayLimit (c : ConfigRecord) (limit : Nat) (b : BayController) : Nat :=
  match b.phase with
  | .charging _ => capped c b.foldback (min limit (phaseCurrent c b.phase))
  | .vacant | .qualify | .done | .hold _ | .fault _ => 0

/-- The demand of a charging phase (R133). -/
def chargeDemand (c : ConfigRecord) (b : BayController) : ChargePhase → Nat
  | .precharge => c.prechargeCurrent
  | .fast => capped c b.foldback c.fast
  | .taper => b.taperValue

/-- The local demand as the phase sets it; in HOLD that of the return phase (R133). -/
def phaseDemand (c : ConfigRecord) (b : BayController) : Nat :=
  match b.phase with
  | .charging p | .hold p => chargeDemand c b p
  | .vacant | .qualify | .done | .fault _ => 0

/-- The bay is throttled: it charges with a bay current limit below its local demand (R132). -/
def bayThrottled (c : ConfigRecord) (limit : Nat) (b : BayController) : Bool :=
  match b.phase with
  | .charging _ => decide (bayLimit c limit b < b.localDemand)
  | .vacant | .qualify | .done | .hold _ | .fault _ => false

/-- The throttled condition of the station (R132, R160). -/
def State.throttled (s : State) : Bool := bayThrottled s.cfg s.commit.limit s.bay

/-- The rate at which a running credit gains, in seconds per second (R141). -/
def creditRate (c : ConfigRecord) (limit : Nat) (b : BayController) : Rat :=
  match b.phase with
  | .charging .taper =>
    if bayThrottled c limit b then max ((bayLimit c limit b : Rat) / (b.localDemand : Rat)) (1 / 2) else 1
  | .charging .precharge | .charging .fast => max ((bayLimit c limit b : Rat) / (phaseCurrent c b.phase : Rat)) (1 / 2)
  | .vacant | .qualify | .done | .hold _ | .fault _ => 0

/-! ### Announcing (R68) -/

/-- A demand change is due: 4 units or more of difference, or a fall to 0 or a rise from 0 (R68). -/
def demandChangeDue (own last : Nat) : Bool :=
  decide (4 ≤ own - last ∨ 4 ≤ last - own ∨ (own = 0 ∧ 0 < last) ∨ (0 < own ∧ last = 0))

/-! ### STAT (R156, R157) -/

/-- The pattern of the first line of R157's table whose condition holds. -/
def patternFor (link : LinkState) (phase : Phase) (throttled : Bool) : Pattern :=
  match link, phase with
  | .barred, _ => .threePulses
  | _, .fault _ => .twoPulses
  | .census, .done | .on, .done => .steady
  | .census, .charging _ | .on, .charging _ => if throttled then .blink4 else .blink1
  | .census, .hold _ | .on, .hold _ => .blink4
  | _, _ => .off

/-- The intervals of a pattern, on first and then alternating, in ms; off and steady have none (R156). -/
def patternIntervals : Pattern → List Nat
  | .off | .steady => []
  | .blink1 => [500, 500]
  | .blink4 => [125, 125]
  | .twoPulses => [100, 200, 100, 1600]
  | .threePulses => [100, 200, 100, 200, 100, 1300]

/-- STAT at one position of a pattern, showing its interval for as long as that lasts. -/
def statAt (p : Pattern) (position : Nat) : StatOutput :=
  { pattern := p, position := position
    left := match (patternIntervals p)[position]? with
      | some d => .start d
      | none => .idle }

end Sys2Proof.Machine
end

