-- ==== Sys2Proof/Machine/Formats.lean ====
section
/-! DEFINITION. Frames as the cells of SHL: field layouts, code values, ranges and the check sequence (sections 5.2, 12.1 to 12.3;
R84, R89, R163, R164). Every field goes most significant bit first. -/

namespace Sys2Proof.Machine

/-! ### Bits -/

/-- The bits of a field in the order sent, most significant first. -/
def bitsOf {w : Nat} (v : BitVec w) : List Bool := (List.range w).map v.getMsbD

/-- A field read cell by cell as a number. -/
def bitsToNat (bs : List Bool) : Nat := bs.foldl (fun n b => 2 * n + b.toNat) 0

/-- The bytes of n times eight cells. -/
def readBytes : Nat → List Bool → List Byte
  | 0, _ => []
  | n + 1, bs => BitVec.ofNat 8 (bitsToNat (bs.take 8)) :: readBytes n (bs.drop 8)

/-- The more significant byte of a two-byte value, which is sent first (chapter 12). -/
def hiByte (h : Half) : Byte := (h >>> 8).setWidth 8

/-- The less significant byte of a two-byte value. -/
def loByte (h : Half) : Byte := h.setWidth 8

/-! ### Check sequence -/

/-- One bit of the check register: generator 07h, feedback the top bit exclusive-or the incoming bit (R164). -/
def crcStep (reg : Byte) (bit : Bool) : Byte :=
  if reg.msb != bit then (reg <<< 1) ^^^ 0x07 else reg <<< 1

/-- The check over the cells from the first kind cell to the last payload cell, from 00h (R164). -/
def crc (bs : List Bool) : Byte := bs.foldl crcStep 0

/-! ### Code values (section 12.2) -/

/-- The channel codes. -/
def channelCode : Channel → Byte
  | .feedv => 0 | .bayv => 1 | .bayi => 2 | .diet => 3 | .pid => 4 | .strapa => 5 | .strapb => 6 | .strapc => 7

/-- The channel of a code, if it names one. -/
def channelOfCode (b : Byte) : Option Channel :=
  match b.toNat with
  | 0 => some .feedv | 1 => some .bayv | 2 => some .bayi | 3 => some .diet
  | 4 => some .pid | 5 => some .strapa | 6 => some .strapb | 7 => some .strapc
  | _ => none

/-- The link state codes. -/
def linkCode : LinkState → Byte
  | .down => 0 | .hailing => 1 | .census => 2 | .on => 3 | .leaving => 4 | .mute => 5 | .barred => 6

/-- The link state byte of a STATUS record: CENSUS or ON, and nothing else is in range (R160, R163). -/
def statusLinkOfCode (b : Byte) : Option LinkState :=
  match b.toNat with
  | 2 => some .census | 3 => some .on
  | _ => none

/-- The phase codes. -/
def phaseCode : PhaseName → Byte
  | .vacant => 0 | .qualify => 1 | .precharge => 2 | .fast => 3 | .taper => 4 | .done => 5 | .hold => 6 | .fault => 7

/-- The phase of a code, if it names one. -/
def phaseOfCode (b : Byte) : Option PhaseName :=
  match b.toNat with
  | 0 => some .vacant | 1 => some .qualify | 2 => some .precharge | 3 => some .fast
  | 4 => some .taper | 5 => some .done | 6 => some .hold | 7 => some .fault
  | _ => none

/-- The fault cause codes. -/
def causeCode : CauseName → Byte
  | .none => 0 | .prechargeTimeout => 1 | .chargeTimeout => 2 | .bayOvervoltage => 3 | .dieHot => 4 | .packIdInvalid => 5

/-- The fault cause of a code, if it names one. -/
def causeOfCode (b : Byte) : Option CauseName :=
  match b.toNat with
  | 0 => some .none | 1 => some .prechargeTimeout | 2 => some .chargeTimeout | 3 => some .bayOvervoltage
  | 4 => some .dieHot | 5 => some .packIdInvalid
  | _ => none

/-- The row state codes. -/
def rowCode : RowName → Byte
  | .absent => 0 | .joining => 1 | .active => 2 | .silent => 3 | .disputed => 4

/-- The row state of a code, if it names one. -/
def rowOfCode (b : Byte) : Option RowName :=
  match b.toNat with
  | 0 => some .absent | 1 => some .joining | 2 => some .active | 3 => some .silent | 4 => some .disputed
  | _ => none

/-- The item codes (section 12.1). -/
def itemCode : Item → Byte
  | .status => 1 | .row => 2 | .reading => 3

/-- The item of a code, if it names one. -/
def itemOfCode (b : Byte) : Option Item :=
  match b.toNat with
  | 1 => some .status | 2 => some .row | 3 => some .reading
  | _ => none

/-- The mode codes (section 12.1). -/
def modeCode : Mode → Byte
  | .census => 0 | .active => 1

/-- The mode of a code, if it names one. -/
def modeOfCode (b : Byte) : Option Mode :=
  match b.toNat with
  | 0 => some .census | 1 => some .active
  | _ => none

/-- The end of a reading record (section 12.1). -/
def endingCode : Ending → Byte
  | .complete => 0 | .limit => 1

/-- The end of a code, if it names one. -/
def endingOfCode (b : Byte) : Option Ending :=
  match b.toNat with
  | 0 => some .complete | 1 => some .limit
  | _ => none

/-- A strap code byte: in range from 0 to 31 (section 12.1). -/
def codeOfByte (b : Byte) : Option Code := if b.toNat < 32 then some (b.setWidth 5) else none

/-- The flags byte of a STATUS record (section 12.1). -/
def flagsByte (r : StatusRecord) : Byte :=
  BitVec.ofNat 8 (r.isolated.toNat + 2 * r.stuck.toNat + 4 * r.starved.toNat + 8 * r.throttled.toNat + 16 * r.foldback.toNat)

/-! ### Readings -/

/-- The range of a channel's samples, in its own unit (R112). -/
def channelRange : Channel → Int × Int
  | .feedv => (0, 6000)
  | .bayv => (0, 5000)
  | .bayi => (0, 5000)
  | .diet => (-40, 150)
  | .pid => (0, 2500)
  | .strapa | .strapb | .strapc => (0, 2400)

/-- A value as a READING record carries it: two's complement for DIET, unsigned for every other channel, which are the same 16 bits. -/
def valueBits (v : Int) : Half := BitVec.ofInt 16 v

/-- A value of a READING record in its channel's own representation (section 12.1, R163). -/
def valueOf (c : Channel) (h : Half) : Int :=
  match c with
  | .diet => h.toInt
  | .feedv | .bayv | .bayi | .pid | .strapa | .strapb | .strapc => h.toNat

/-- A value of a READING record lies in its channel's range (R163). -/
def valueInRange (c : Channel) (h : Half) : Bool :=
  decide ((channelRange c).1 ≤ valueOf c h ∧ valueOf c h ≤ (channelRange c).2)

/-! ### Payloads -/

/-- The record of a REPORT, from payload byte 1 on: item, index, record (section 12.1). -/
def reportBytes : ReportRecord → List Byte
  | .status index r =>
    [itemCode .status, index, linkCode r.link, phaseCode r.phase, causeCode r.cause, r.limit, r.target, r.lastAnnounced,
      r.localDemand, r.stage, r.rowCount, flagsByte r]
  | .row index r =>
    [itemCode .row, index, rowCode r.state, r.sb.setWidth 8, r.sc.setWidth 8, r.demand, r.grant, r.frozen,
      hiByte r.tag, loByte r.tag, r.age]
  | .reading r =>
    [itemCode .reading, channelCode r.channel, channelCode r.channel, r.count, endingCode r.ending,
      hiByte r.min, loByte r.min, hiByte r.max, loByte r.max, hiByte r.average, loByte r.average, hiByte r.last, loByte r.last]

/-- The kind field (section 5.2). -/
def kindCode : Payload → BitVec 3
  | .leave _ => 1
  | .join _ => 2
  | .demand _ => 3
  | .query _ => 5
  | .report _ => 6
  | .unassigned .kind0 _ => 0
  | .unassigned .kind4 _ => 4
  | .unassigned .kind7 _ => 7

/-- The payload bytes in the order sent (section 12.1). -/
def payloadBytes : Payload → List Byte
  | .leave b => [hiByte b.tag, loByte b.tag]
  | .join b => [hiByte b.tag, loByte b.tag, b.sb.setWidth 8, b.sc.setWidth 8]
  | .demand b =>
    [hiByte b.tag, loByte b.tag, b.sb.setWidth 8, b.sc.setWidth 8, modeCode b.mode, b.demand, b.stage, b.quiet]
  | .query b => [b.target, itemCode b.item, b.index]
  | .report b => b.requester.setWidth 8 :: reportBytes b.content
  | .unassigned _ bytes => bytes

/-- A station number, 1 to 16, as a byte. -/
def isStationByte (b : Byte) : Bool := decide (1 ≤ b.toNat ∧ b.toNat ≤ 16)

/-- A current in units, 0 to 160, as a byte. -/
def isUnitsByte (b : Byte) : Bool := decide (b.toNat ≤ 160)

/-- The index of a QUERY or REPORT is judged by its item (R158, R163). -/
def indexInRange : Item → Byte → Bool
  | .status, _ => true
  | .row, b => isStationByte b
  | .reading, b => decide (b.toNat ≤ 7)

/-- Every field of a REPORT's record is in range (section 12.1, R163). -/
def reportInRange : ReportRecord → Bool
  | .status _ r =>
    (r.link == .census || r.link == .on) && isUnitsByte r.limit && isUnitsByte r.target && isUnitsByte r.lastAnnounced &&
      isUnitsByte r.localDemand && decide (r.stage.toNat ≤ 2) && isStationByte r.rowCount
  | .row index r => isStationByte index && isUnitsByte r.demand && isUnitsByte r.grant && isUnitsByte r.frozen
  | .reading r =>
    decide (r.count.toNat ≤ 8) && valueInRange r.channel r.min && valueInRange r.channel r.max &&
      valueInRange r.channel r.average && valueInRange r.channel r.last

/-- Every field of a payload is in range (section 12.1); an unassigned kind has any payload the length field can give (R90). -/
def payloadInRange : Payload → Bool
  | .leave _ => true
  | .join _ => true
  | .demand b => isUnitsByte b.demand && decide (b.stage.toNat ≤ 2) && decide (b.quiet.toNat ≤ 100)
  | .query b => isStationByte b.target && indexInRange b.item b.index
  | .report b => b.requester != 0 && reportInRange b.content
  | .unassigned _ bytes => decide (bytes.length ≤ 15)

/-- A frame no receiver finds a range fault in (R89, R163): sender 1 to 31 and every payload field in range. -/
def frameInRange (f : Frame) : Bool := f.sender != 0 && payloadInRange f.payload

/-! ### Cells -/

/-- The data cells that the check covers: kind, sender, length, payload (R164). -/
def bodyCells (f : Frame) : List Bool :=
  bitsOf (kindCode f.payload) ++ bitsOf f.sender ++ bitsOf (BitVec.ofNat 4 (payloadBytes f.payload).length) ++
    (payloadBytes f.payload).flatMap bitsOf

/-- All data cells of a frame, from the first kind cell to the last check cell (section 5.2). -/
def frameCells (f : Frame) : List Bool := bodyCells f ++ bitsOf (crc (bodyCells f))

/-! ### Reading the cells (R88, R89, R163) -/

/-- Two bytes as one value, the first more significant. -/
def halfOf (hi lo : Byte) : Half := hi ++ lo

/-- The record of a REPORT, read from its bytes after the requester. Index and channel of a READING must agree (R163). -/
def readReport : List Byte → Option ReportRecord
  | item :: index :: rest =>
    match itemOfCode item, rest with
    | some .status, [link, phase, cause, limit, target, last, own, stage, rows, flags] =>
      match statusLinkOfCode link, phaseOfCode phase, causeOfCode cause with
      | some l, some p, some c =>
        if flags.toNat < 32 then
          some (.status index
            { link := l, phase := p, cause := c, limit := limit, target := target, lastAnnounced := last, localDemand := own
              stage := stage, rowCount := rows, isolated := flags.getLsbD 0, stuck := flags.getLsbD 1
              starved := flags.getLsbD 2, throttled := flags.getLsbD 3, foldback := flags.getLsbD 4 })
        else none
      | _, _, _ => none
    | some .row, [state, sb, sc, demand, grant, frozen, t1, t0, age] =>
      match rowOfCode state, codeOfByte sb, codeOfByte sc with
      | some s, some b, some c =>
        some (.row index
          { state := s, sb := b, sc := c, demand := demand, grant := grant, frozen := frozen, tag := halfOf t1 t0, age := age })
      | _, _, _ => none
    | some .reading, [channel, count, ending, n1, n0, x1, x0, a1, a0, l1, l0] =>
      match channelOfCode channel, endingOfCode ending with
      | some c, some e =>
        if channel = index then
          some (.reading
            { channel := c, count := count, ending := e, min := halfOf n1 n0, max := halfOf x1 x0
              average := halfOf a1 a0, last := halfOf l1 l0 })
        else none
      | _, _ => none
    | _, _ => none
  | _ => none

/-- The payload of a kind, read from its bytes; nothing where the length is not the kind's or a code is out of range. -/
def readPayload (kind : Nat) (bytes : List Byte) : Option Payload :=
  match kind, bytes with
  | 1, [t1, t0] => some (.leave { tag := halfOf t1 t0 })
  | 2, [t1, t0, sb, sc] =>
    match codeOfByte sb, codeOfByte sc with
    | some b, some c => some (.join { tag := halfOf t1 t0, sb := b, sc := c })
    | _, _ => none
  | 3, [t1, t0, sb, sc, mode, demand, stage, quiet] =>
    match codeOfByte sb, codeOfByte sc, modeOfCode mode with
    | some b, some c, some m =>
      some (.demand { tag := halfOf t1 t0, sb := b, sc := c, mode := m, demand := demand, stage := stage, quiet := quiet })
    | _, _, _ => none
  | 5, [target, item, index] =>
    match itemOfCode item with
    | some i => some (.query { target := target, item := i, index := index })
    | none => none
  | 6, requester :: rest =>
    match codeOfByte requester, readReport rest with
    | some q, some r => some (.report { requester := q, content := r })
    | _, _ => none
  | 0, bytes => some (.unassigned .kind0 bytes)
  | 4, bytes => some (.unassigned .kind4 bytes)
  | 7, bytes => some (.unassigned .kind7 bytes)
  | _, _ => none

/-- The number of data cells that a length field reckons (R84, R88). -/
def reckonedCells (length : Nat) : Nat := 20 + 8 * length

/-- The frame that a run of sampled data cells spells, or nothing where a receiver finds a cell-count, check, length or range
fault (R88, R89, R90, R163). -/
def readFrame (cells : List Bool) : Option Frame :=
  let kind := bitsToNat (cells.take 3)
  let sender : Sender := BitVec.ofNat 5 (bitsToNat ((cells.drop 3).take 5))
  let length := bitsToNat ((cells.drop 8).take 4)
  if cells.length ≠ reckonedCells length then none
  else
    let body := cells.take (12 + 8 * length)
    if bitsOf (crc body) ≠ cells.drop (12 + 8 * length) then none
    else
      match readPayload kind (readBytes length (cells.drop 12)) with
      | none => none
      | some p =>
        let f : Frame := { sender := sender, payload := p }
        if frameInRange f then some f else none

end Sys2Proof.Machine
end

