-- ==== Sys2Proof/Machine/Operands.lean ====
section
/-! DEFINITION. What a command brings and what a frame takes from the state: samples held in their channel's range, the frames of this
station, and the snapshots of the query service. -/

namespace Sys2Proof.Machine

/-! ### Samples (R112, R114) -/

/-- An input beyond either end of the range reads as that end (R112). -/
def clampSample (c : Channel) (input : Int) : Int := max (channelRange c).1 (min input (channelRange c).2)

/-- The channel of a scan position (R117, R120). -/
def ScanPos.channel : ScanPos → Channel
  | .s1 => .strapa | .s2 => .strapb | .s3 => .strapc
  | .p1 | .p3 | .p5 | .p7 => .feedv
  | .p2 => .bayv | .p4 => .bayi | .p6 => .diet | .p8 => .pid

/-- The sample number N of a scan position (R117, R120). -/
def ScanPos.samples : ScanPos → Nat
  | .s1 | .s2 | .s3 => 8
  | .p1 | .p3 | .p5 | .p7 => 4
  | .p2 | .p4 => 8
  | .p6 => 2
  | .p8 => 4

/-- The next position: through the strap pass once, then round the running list (R117, R120, R121). -/
def ScanPos.next : ScanPos → ScanPos
  | .s1 => .s2 | .s2 => .s3 | .s3 => .p1
  | .p1 => .p2 | .p2 => .p3 | .p3 => .p4 | .p4 => .p5 | .p5 => .p6 | .p6 => .p7 | .p7 => .p8 | .p8 => .p1

/-- A sample joins the running cycle (R114). -/
def Accumulators.add (a : Accumulators) (v : Int) : Accumulators :=
  { count := a.count + 1
    min := if a.count = 0 then v else Min.min a.min v
    max := if a.count = 0 then v else Max.max a.max v
    sum := a.sum + v
    last := v }

/-- A sample outside the limit window of its channel (R115). The overvoltage limit is the one the scan took at the end of the strap
pass; before that no BAYV cycle runs, and a sample counts as inside (DESIGN CHOICE, log 32). -/
def outsideWindow (c : Channel) (overvoltage : Option Int) (v : Int) : Bool :=
  match c, overvoltage with
  | .feedv, _ => decide (v < 4600)
  | .bayv, some limit => decide (limit < v)
  | .bayv, none => false
  | .bayi, _ | .diet, _ | .pid, _ | .strapa, _ | .strapb, _ | .strapc, _ => false

/-- The reading record of a cycle; the average is truncated toward zero (R116). -/
def Accumulators.record (a : Accumulators) (c : Channel) (ending : Ending) : Reading :=
  { channel := c, count := a.count, min := a.min, max := a.max, average := a.sum.tdiv a.count, last := a.last, ending := ending }

/-- The entry of a channel in the reading store (R118). -/
def ReadingStore.entry (t : ReadingStore) : Channel → Option Reading
  | .feedv => t.feedv | .bayv => t.bayv | .bayi => t.bayi | .diet => t.diet
  | .pid => t.pid | .strapa => t.strapa | .strapb => t.strapb | .strapc => t.strapc

/-- A record replaces the entry of its channel (R118). -/
def ReadingStore.put (t : ReadingStore) (r : Reading) : ReadingStore :=
  match r.channel with
  | .feedv => { t with feedv := some r }
  | .bayv => { t with bayv := some r }
  | .bayi => { t with bayi := some r }
  | .diet => { t with diet := some r }
  | .pid => { t with pid := some r }
  | .strapa => { t with strapa := some r }
  | .strapb => { t with strapb := some r }
  | .strapc => { t with strapc := some r }

/-- The class of a PID record, by its average (R126). -/
def pidClassOf (average : Int) : PidClass :=
  if 2000 ≤ average then .openPin else if 100 ≤ average then .valid else .short

/-- The TAPER value of a BAYI average in mA: average x 1.25 / 25, rounded up to units (R129). -/
def taperUnits (average : Int) : Nat := (average.toNat + 19) / 20

/-! ### Frames of this station (R61, R165) -/

/-- The mode of a DEMAND built now: CENSUS in CENSUS, ACTIVE in ON (R61). -/
def demandMode (link : LinkState) : Mode := if link = .census then .census else .active

/-- The DEMAND this station builds at the start of an attempt (R61, R109). -/
def State.buildDemand (s : State) : DemandBody :=
  { tag := s.cfg.tag, sb := s.cfg.sb, sc := s.cfg.sc, mode := demandMode s.line.link
    demand := BitVec.ofNat 8 s.bay.localDemand, stage := BitVec.ofNat 8 s.feed.stage
    quiet := BitVec.ofNat 8 s.feed.quiet.hundredMs }

/-- The JOIN this station builds (R61). -/
def State.buildJoin (s : State) : JoinBody := { tag := s.cfg.tag, sb := s.cfg.sb, sc := s.cfg.sc }

/-- The LEAVE this station builds (R61). -/
def State.buildLeave (s : State) : LeaveBody := { tag := s.cfg.tag }

/-! ### Snapshots (R159 to R162, R165) -/

/-- The name of a phase in a STATUS record (section 12.2). -/
def Phase.name : Phase → PhaseName
  | .vacant => .vacant
  | .qualify => .qualify
  | .charging .precharge => .precharge
  | .charging .fast => .fast
  | .charging .taper => .taper
  | .done => .done
  | .hold _ => .hold
  | .fault _ => .fault

/-- The fault cause of a phase in a STATUS record: none except in FAULT (R160). -/
def Phase.cause : Phase → CauseName
  | .fault .prechargeTimeout => .prechargeTimeout
  | .fault (.chargeTimeout _) => .chargeTimeout
  | .fault .bayOvervoltage => .bayOvervoltage
  | .fault .dieHot => .dieHot
  | .fault .packIdInvalid => .packIdInvalid
  | .vacant | .qualify | .charging _ | .done | .hold _ => .none

/-- The STATUS record of this moment (R160). -/
def State.statusRecord (s : State) : StatusRecord :=
  { link := s.line.link
    phase := s.bay.phase.name
    cause := s.bay.phase.cause
    limit := BitVec.ofNat 8 s.commit.limit
    target := BitVec.ofNat 8 s.commit.target
    lastAnnounced := BitVec.ofNat 8 s.line.lastAnnounced
    localDemand := BitVec.ofNat 8 s.bay.localDemand
    stage := BitVec.ofNat 8 s.feed.stage
    rowCount := BitVec.ofNat 8 s.table.length
    isolated := s.line.isolated
    stuck := s.feed.stuck
    starved := s.starvedFlag
    throttled := s.throttled
    foldback := s.bay.foldback }

/-- The ROW record of a row; an absent station reads as state 0 and every other field 0 (R161, R165). The age is in whole 100 ms steps,
rounded down and held at 255. -/
def rowRecord : Option Row → RowRecord
  | none => { state := .absent, sb := 0, sc := 0, demand := 0, grant := 0, frozen := 0, tag := 0, age := 0 }
  | some r =>
    { state := r.name, sb := r.sb, sc := r.sc, demand := BitVec.ofNat 8 r.demand, grant := BitVec.ofNat 8 r.grant
      frozen := BitVec.ofNat 8 r.frozen, tag := r.tag, age := BitVec.ofNat 8 (min (r.age / ms 100) 255) }

/-- The READING record of an entry; an empty entry reads as count 0, end COMPLETE and every value 0 (R162). -/
def readingRecord (c : Channel) : Option Reading → ReadingRecord
  | none => { channel := c, count := 0, ending := .complete, min := 0, max := 0, average := 0, last := 0 }
  | some r =>
    { channel := c, count := BitVec.ofNat 8 r.count, ending := r.ending, min := valueBits r.min, max := valueBits r.max
      average := valueBits r.average, last := valueBits r.last }

/-- The record that a QUERY asks for, as it stands now (R159). A READING index out of range is a range fault, so no such QUERY is
accepted (R158). -/
def State.snapshot (s : State) (q : QueryBody) : Option ReportRecord :=
  match q.item with
  | .status => some (.status q.index s.statusRecord)
  | .row => some (.row q.index (rowRecord (findRow q.index.toNat s.table)))
  | .reading => (channelOfCode q.index).map fun c => .reading (readingRecord c (s.store.entry c))

end Sys2Proof.Machine
end

