-- ==== Sys2Proof/Machine/Reception.lean ====
section
/-! DEFINITION. A frame on the wire: cell and start-mark timing, what a receiver and a sender find in it, which of them veto, and what they
drive (sections 5.1 to 5.4; R79 to R81, R84 to R91). Times in nanoseconds. -/

namespace Sys2Proof.Machine

/-- A low run as wide as a 1: 1.5 to 3.5 microseconds (R80). -/
def lowRunIsOne (w : Nat) : Bool := decide (1500 ≤ w ∧ w ≤ 3500)

/-- A low run as wide as a 0: 6.5 to 8.5 microseconds (R80). -/
def lowRunIsZero (w : Nat) : Bool := decide (6500 ≤ w ∧ w ≤ 8500)

/-- The sample of a cell, 5 microseconds after its falling edge: high is a 1 (R80). DESIGN CHOICE, log 34: a low run that ends at that very instant
is sampled low. -/
def sampleCell (c : CellSeen) : Bool := decide (c.low < 5000)

/-- The data cells of a reception: they end at the first cell after which no falling edge comes within 11 microseconds (R80, R88). -/
def dataCells : List CellSeen → List CellSeen
  | [] => []
  | c :: cs => if 11000 < c.gap then [c] else c :: dataCells cs

/-- A fault of cell timing in one cell: an illegal width, or, where another cell follows, its edge less than 9 microseconds on (R80, R89). -/
def cellFault (c : CellSeen) (follows : Bool) : Bool :=
  !(lowRunIsOne c.low || lowRunIsZero c.low) || (follows && decide (c.gap < 9000))

/-- A low run of illegal width among the cells, or a falling edge less than 9 microseconds after the one before it (R80, R89). -/
def timingFault : List CellSeen → Bool
  | [] => false
  | c :: cs => cellFault c (!cs.isEmpty) || timingFault cs

/-- The low run begun from idle begins a frame: its width is a start mark's, and a first kind cell follows within 24.5 microseconds of its
edge (R80, R81). -/
def beginsFrame (rx : Reception) : Bool :=
  decide (18000 ≤ rx.startLow ∧ rx.startLow ≤ 22000 ∧ rx.startGap ≤ 24500 ∧ rx.cells ≠ [])

/-- A low run from idle that begins no frame (R80, R81): no party vetoes it. Where nothing fell on the line there was no low run. -/
def strayRun (rx : Reception) : Bool := decide (0 < rx.startLow) && !beginsFrame rx

/-- A fault of timing that a party following the frame finds in it: in the cells, or in the edge of the first kind cell (R80, R89). -/
def receptionTimingFault (rx : Reception) : Bool :=
  decide (rx.startGap < 20500) || timingFault (dataCells rx.cells)

/-- A receiver finds the frame bad (R89): timing, cell count, check, length or range. -/
def receiverFindsBad (rx : Reception) : Bool :=
  receptionTimingFault rx || (readFrame ((dataCells rx.cells).map sampleCell)).isNone

/-- How a sender fares in its own frame (R85, R87): it sends to the end, it has lost arbitration in a cell where it sent a 1 and sampled a
0, or it has a bit error: it sent a 0 and sampled a 1, or found a fault of cell timing in a cell of its own. -/
inductive Contest where
  | survived | lost | bitError
deriving DecidableEq, Repr

/-- The contest of the cells sent against the cells seen, in their order (R85, R87). A sender reckons its cells from what it sends (R88): cells
beyond its last are none of its own, and a cell of its own in which it sees no low run did not reach the line, a fault of cell timing.
DESIGN CHOICE, log 35: an edge less than 9 microseconds after that of its last cell is a fault of timing in that cell. -/
def contest : List Bool → List CellSeen → Contest
  | [], _ => .survived
  | _ :: _, [] => .bitError
  | sent :: more, c :: seen =>
    if sent && !sampleCell c then .lost
    else if sent != sampleCell c || cellFault c (!seen.isEmpty) then .bitError
    else contest more seen

/-- The edge of the first kind cell lies where a sender can take it for its own first cell (R80). -/
def startFits (rx : Reception) : Bool := decide (20500 ≤ rx.startGap ∧ rx.startGap ≤ 24500)

/-- How this station fares as a sender in the frame of which it saw rx; nothing where it is no sender of it, or where the low run it saw begins
no frame (R80, R81). `tx` is the frame it had on the line, if it began one at this frame's edge. A sender on whose line nothing fell has a
driver that cannot pull low, and a bit error (R87, R98; log 29). -/
def senderFate (tx : Option Frame) (rx : Reception) : Option Contest :=
  match rx.sending, tx with
  | true, some f =>
    if strayRun rx then none else some (if startFits rx then contest (frameCells f) (dataCells rx.cells) else .bitError)
  | _, _ => none

/-- This station, taking part in the line, vetoes the frame: as a receiver that finds it bad, as a sender that lost and then finds it bad, or
as a sender with a bit error (R91). A low run from idle that begins no frame no party vetoes, its sender included (R80, R81). -/
def stationVetoes (tx : Option Frame) (rx : Reception) : Bool :=
  match senderFate tx rx with
  | some .survived => false
  | some .lost => receiverFindsBad rx
  | some .bitError => true
  | none => beginsFrame rx && receiverFindsBad rx

/-! ### What a party drives (R79 to R81, R91)

Times in nanoseconds after the falling edge of the start mark. -/

/-- One low run that a party drives. -/
structure Drive where
  start : Nat
  stop : Nat
deriving DecidableEq, Repr

/-- Low is dominant: the line is low while any party drives it (R79), and high again at the instant at which the drive ends (DESIGN CHOICE,
log 34). -/
def lineLow (drives : List Drive) (time : Nat) : Bool := drives.any fun d => decide (d.start ≤ time ∧ time < d.stop)

/-- The window is vetoed if the line is low at either window sample, 15 and 25 microseconds after the edge of the last data cell (R91). -/
def windowVetoed (lastEdge : Nat) (drives : List Drive) : Bool :=
  lineLow drives (lastEdge + 15000) || lineLow drives (lastEdge + 25000)

/-- When a party knows that a frame is bad (R91): before the window begins, only when the cells end early, or only on an edge where it
reckoned the window. -/
inductive VetoMoment where
  | beforeWindow | cellsEnded
  | onEdge (edge : Nat)
deriving DecidableEq, Repr

/-- The veto drive of R91's table, `lastEdge` being the edge of the last data cell. -/
def VetoMoment.drive (lastEdge : Nat) : VetoMoment → Drive
  | .beforeWindow => { start := lastEdge + 10000, stop := lastEdge + 30000 }
  | .cellsEnded => { start := lastEdge + 11000, stop := lastEdge + 30000 }
  | .onEdge edge => { start := edge, stop := edge + 20000 }

/-- The falling edges of the cells seen, the first of them at `first`. -/
def edgesFrom (first : Nat) : List CellSeen → List Nat
  | [] => []
  | c :: cs => first :: edgesFrom (first + c.gap) cs

/-- A sender's next edge (R80): its own when due, or the first edge it sees on the line before that. -/
def nextEdge (seen : List Nat) (last due : Nat) : Nat := (seen.find? fun e => decide (last < e ∧ e < due)).getD due

/-- A sender's data cells, each 10 microseconds after the one before or drawn to an earlier edge seen (R80). -/
def cellDrives (seen : List Nat) (last due : Nat) : List Bool → List Drive
  | [] => []
  | bit :: bits =>
    let edge := nextEdge seen last due
    { start := edge, stop := edge + (if bit then 2500 else 7500) } :: cellDrives seen edge (edge + 10000) bits

/-- The cells that a sender drives: up to the one in which it loses, and every one with or without a bit error (R85, R87). -/
def drivenCells : List Bool → List CellSeen → List Bool
  | [], _ => []
  | sent, [] => sent
  | sent :: more, c :: seen =>
    if sent && !sampleCell c then [sent]
    else if sent != sampleCell c || cellFault c (!seen.isEmpty) then sent :: more
    else sent :: drivenCells more seen

/-- What a sender drives of its frame (R80, R81): a start mark of 20 microseconds, 2.5 microseconds released, and its data cells. -/
def frameDrives (f : Frame) (rx : Reception) : List Drive :=
  let cells := if startFits rx then drivenCells (frameCells f) (dataCells rx.cells) else frameCells f
  { start := 0, stop := 20000 } :: cellDrives (edgesFrom rx.startGap rx.cells) 20000 22500 cells

/-- Bytes in range for the rest of a payload of a kind and length, after the bytes already received; a REPORT's length tells its item. -/
def fillBytes (kind length : Nat) (received : List Byte) : List Byte :=
  let blank : List Byte :=
    match kind, length with
    | 5, 3 => [1, 1, 1]
    | 6, 12 => [1, 2, 1, 0, 0, 0, 0, 0, 0, 0, 0, 0]
    | 6, 13 => [1, 1, 0, 2, 0, 0, 0, 0, 0, 0, 0, 1, 0]
    | 6, 14 => [1, 3, received.getD 2 0, received.getD 2 0, 0, 0, 0, 0, 0, 0, 0, 0, 0, 0]
    | _, n => List.replicate n 0
  received ++ blank.drop received.length

/-- A length or range fault stands in the fields received whole so far, before the cells reach their reckoned end (R89). The two bytes of a
reading's value are one field. -/
def fieldFault (cells : List Bool) : Bool :=
  let kind := bitsToNat (cells.take 3)
  let length := bitsToNat ((cells.drop 8).take 4)
  let whole := min ((cells.length - 12) / 8) length
  let fields := if kind = 6 ∧ length = 14 ∧ 6 < whole ∧ whole % 2 = 1 then whole - 1 else whole
  (decide (8 ≤ cells.length) && bitsToNat ((cells.drop 3).take 5) == 0) ||
    (decide (12 ≤ cells.length) &&
      match readPayload kind (fillBytes kind length (readBytes fields (cells.drop 12))) with
      | some p => !payloadInRange p
      | none => true)

/-- The data cells that a receiver reckons from the length field, once it has received that (R88). -/
def reckonedFrom (cells : List Bool) : Option Nat :=
  if cells.length < 12 then none else some (reckonedCells (bitsToNat ((cells.drop 8).take 4)))

/-- When a receiver that finds the frame bad knows it, and the edge that it takes for that of the last data cell (R88, R91).
DESIGN CHOICE, log 31: an edge less than 9 microseconds after that of the reckoned last cell counts as an edge where it reckoned the window, and not as a
fault known before the window. -/
def receiverVeto (rx : Reception) : VetoMoment × Nat :=
  let cells := dataCells rx.cells
  let bits := cells.map sampleCell
  let edges := edgesFrom rx.startGap cells
  let early (n : Nat) : Bool := decide (rx.startGap < 20500) || timingFault (cells.take n)
  let ended := (if early cells.length || fieldFault bits then .beforeWindow else .cellsEnded, edges.getLastD 0)
  match reckonedFrom bits with
  | none => ended
  | some n =>
    if bits.length < n then ended
    else if n < bits.length then
      (if early n || (readFrame (bits.take n)).isNone then .beforeWindow else .onEdge (edges.getD n 0), edges.getD (n - 1) 0)
    else (.beforeWindow, edges.getD (n - 1) 0)

/-! ### The nominal waveform and its times -/

/-- A data cell as its sender drives it: low for 2.5 microseconds to send a 1 and 7.5 to send a 0, 10 to the next (R80). -/
def nominalCell (bit : Bool) : CellSeen := { low := if bit then 2500 else 7500, gap := 10000 }

/-- A frame as its sender drives it: a start mark of 20 microseconds, the first kind cell 2.5 after its release, then the data cells (R81). -/
def nominalWaveform (f : Frame) : Reception :=
  { sending := false, startLow := 20000, startGap := 22500, cells := (frameCells f).map nominalCell }

/-- The end of the veto window, from the falling edge of the start mark, of a frame with a payload of `length` bytes (R84). -/
def windowEnd (length : Nat) : Nat := 22500 + 10000 * (reckonedCells length) + 20000

/-- The cells of a frame read as one number, the smaller of which survives arbitration (R85). -/
def arbitrationNumber (f : Frame) : Nat := bitsToNat (frameCells f)

end Sys2Proof.Machine
end

