-- ==== Sys2Proof/Machine/Ops.lean ====
section
/-! DEFINITION. The shared operations of the block: handing a new limit to the bay, handing a target to the commit unit, recomputing,
requesting and completing frames, entering a link state, beginning a frame on an idle line, choosing the STAT pattern, and the
passing of one conversion's time. Every command's meaning is a few of these. -/

namespace Sys2Proof.Machine

/-! ### Credits (R140) -/

/-- A credit starts running from 0. -/
def Credit.start : Credit := { seconds := 0, run := .running }

/-- A running credit is paused, keeping its value. -/
def Credit.pause (c : Credit) : Credit := if c.run = .running then { c with run := .paused } else c

/-- A paused credit resumes. -/
def Credit.resume (c : Credit) : Credit := if c.run = .paused then { c with run := .running } else c

/-- A credit is stopped, keeping its value. -/
def Credit.stop (c : Credit) : Credit := { c with run := .stopped }

/-- A running credit has reached its setting, or reaches it at its rate within the conversion under way, whose record may then be taken after
the timeout or before it (R143, R148; log 3). -/
def Credit.due (setting rate : Rat) (c : Credit) : Bool :=
  decide (c.run = .running ∧ setting ≤ c.seconds + rate * conversionSeconds)

/-- A running credit gains one conversion's time at a rate, up to its setting (R141, R142, R143). -/
def Credit.gain (setting rate : Rat) (c : Credit) : Credit :=
  if c.run = .running then { c with seconds := min setting (c.seconds + rate * conversionSeconds) } else c

/-! ### The bay controller -/

/-- Entering FAULT (R136, R140): the cause is recorded, the return phase goes with the phase, the termination count is 0, both credits
stop. GATE and the local demand follow from the phase. -/
def BayController.enterFault (cause : FaultCause) (b : BayController) : BayController :=
  { b with phase := .fault cause, termCount := 0, precharge := b.precharge.stop, charge := b.charge.stop }

/-- Entering QUALIFY (R127): both credits are reset. -/
def BayController.enterQualify (b : BayController) : BayController :=
  { b with phase := .qualify, precharge := .zero, charge := .zero }

/-- Removal of the pack (R126): VACANT, cause and return phase gone with the phase, TAPER value and count 0, both credits reset. -/
def BayController.remove (b : BayController) : BayController :=
  { b with phase := .vacant, taperValue := 0, termCount := 0, precharge := .zero, charge := .zero }

/-- The full-at-timeout flag: the latest BAYV average is at or above the recharge threshold (R144). -/
def fullAtTimeout (c : ConfigRecord) (t : ReadingStore) : Bool :=
  match t.bayv with
  | some r => decide (c.recharge ≤ r.average)
  | none => false

/-- The timeout of the precharge credit: it stops at its setting, and the bay enters FAULT (R143). -/
def BayController.prechargeTimeout (b : BayController) : BayController :=
  { b with precharge.seconds := prechargeSetting }.enterFault .prechargeTimeout

/-- The timeout of the charge credit, with the full-at-timeout flag (R143, R144). -/
def BayController.chargeTimeout (full : Bool) (b : BayController) : BayController :=
  { b with charge.seconds := chargeSetting }.enterFault (.chargeTimeout full)

/-- The return from HOLD (R131): the return phase, the paused credit running again, the termination count 0 in TAPER. A credit that
stands at its setting times out in this step (R148). -/
def BayController.returnTo (p : ChargePhase) (full : Bool) (b : BayController) : BayController :=
  let b' : BayController :=
    { b with phase := .charging p, termCount := if p = .taper then 0 else b.termCount
             precharge := b.precharge.resume, charge := b.charge.resume }
  if b'.precharge.run = .running ∧ prechargeSetting ≤ b'.precharge.seconds then b'.enterFault .prechargeTimeout
  else if b'.charge.run = .running ∧ chargeSetting ≤ b'.charge.seconds then b'.enterFault (.chargeTimeout full)
  else b'

/-- HOLD follows L (R131): a charging phase with L below 2 units goes to HOLD with its credit paused; HOLD with L of 2 units or more
returns. -/
def BayController.followLimit (limit : Nat) (full : Bool) (b : BayController) : BayController :=
  match b.phase with
  | .charging p =>
    if limit < 2 then { b with phase := .hold p, precharge := b.precharge.pause, charge := b.charge.pause } else b
  | .hold p => if limit < 2 then b else b.returnTo p full
  | .vacant | .qualify | .done | .fault _ => b

/-! ### Requests for the transmit queue (R60, R66 to R68) -/

/-- A request fills an empty JOIN or LEAVE slot and leaves a filled one as it is (R60). -/
def Slot.request : Slot → Slot
  | .empty => .waiting
  | .waiting => .waiting
  | .onLine => .onLine

/-- A request for the DEMAND slot; from the census timer it marks a frame on the line as renewed (R60, R67). -/
def DemandSlot.request (fromCensus : Bool) : DemandSlot → DemandSlot
  | .empty => .waiting
  | .waiting => .waiting
  | .onLine renewed => .onLine (renewed || fromCensus)

/-- A DEMAND is requested (R60). -/
def State.requestDemand (fromCensus : Bool) (s : State) : State :=
  { s with line.queue.demand := s.line.queue.demand.request fromCensus }

/-- The demand-change condition is judged (R68): in ON, with the spacing timer idle and the DEMAND slot empty, a due change fills the
slot. In every other case nothing is done now. -/
def State.judgeDemand (s : State) : State :=
  if s.line.link = .on ∧ s.line.timers.spacing = .idle ∧ s.line.queue.demand = .empty ∧
      demandChangeDue s.bay.localDemand s.line.lastAnnounced = true
  then s.requestDemand false else s

/-! ### The bay and the commit unit -/

/-- The bay takes a new inner state: HOLD follows L, the local demand is worked out again, and a new value of it is handed to the share
line interface in the same step (R131, R133). -/
def State.putBay (b : BayController) (s : State) : State :=
  let b' := b.followLimit s.commit.limit (fullAtTimeout s.cfg s.store)
  let demand := phaseDemand s.cfg b'
  let s' : State := { s with bay := { b' with localDemand := demand } }
  if demand = s.bay.localDemand then s' else s'.judgeDemand

/-- The commit unit takes new values; a new L is passed to the bay in the same step (R56). -/
def State.putCommit (c : CommitUnit) (s : State) : State :=
  let s' : State := { s with commit := c }
  if c.limit = s.commit.limit then s' else s'.putBay s'.bay

/-- The raise hold after a new target (R45, R46): a running hold restarts on a lowering recompute; an idle hold starts when T is above
L and ALM is high. -/
def holdAfter (hold : Timer) (lowering almHigh : Bool) (target limit : Nat) : Timer :=
  match hold with
  | .running left => if lowering then .start raiseHoldMs else .running left
  | .idle => if limit < target ∧ almHigh = true then .start raiseHoldMs else .idle

/-- A recompute hands over the own target and the lowering result (R43 to R46): T is stored, a T below L lowers L, then the hold. -/
def State.handOver (lowering : Bool) (s : State) : State :=
  let target := s.ownTarget
  let limit := min s.commit.limit target
  s.putCommit { target := target, limit := limit, hold := holdAfter s.commit.hold lowering s.pins.almHigh target limit }

/-- A recompute (R25): every live row is written afresh and the results are handed to the commit unit, in the step of the event that
starts it. `before` is the table as it was before that event (R37). -/
def State.recompute (before : List Row) (s : State) : State :=
  let rows := recomputeRows s.table s.feed.stage
  ({ s with table := rows } : State).handOver (isLowering before rows)

/-- One row changes; the change is handed to the share rule where R16 says so. -/
def State.putRowOf (n : Nat) (new : Option Row) (s : State) : State :=
  let s' : State := { s with table := putRow n new s.table }
  if handedOn (findRow n s.table) new then s'.recompute s.table else s'

/-- The cap stage takes a value; a change of it starts a recompute (R25). -/
def State.putStage (stage : Nat) (s : State) : State :=
  if stage = s.feed.stage then s else ({ s with feed.stage := stage } : State).recompute s.table

/-- T and L become 0 and the raise hold is cancelled (R51). -/
def State.zeroCommit (s : State) : State := s.putCommit { target := 0, limit := 0, hold := .idle }

/-! ### Entering a link state -/

/-- The feed watch on entering DOWN or BARRED (R99): stage 0, quiet and low timers cancelled, stuck flag clear, tracking off. Droop
count, ALM drive and re-arm timer stay. The table is cleared by the same entry, so no recompute has a row to write. -/
def FeedWatch.leaveTracking (f : FeedWatch) : FeedWatch :=
  { f with stage := 0, quiet := .idle, low := .idle, stuck := false, tracking := false }

/-- Tracking begins on leaving DOWN for HAILING; with ALM already low the low timer starts (R103). -/
def FeedWatch.beginTracking (almHigh : Bool) (f : FeedWatch) : FeedWatch :=
  { f with tracking := true, low := if almHigh then f.low else .start lowMs }

/-- Entering HAILING (R63): the table is cleared, T and L are 0, the DEMAND and REPORT slots emptied, a JOIN queued, the timers
cancelled, the last announced demand 0. The veto run count, the cap stage and the isolated flag stay. -/
def State.enterHailing (s : State) : State :=
  ({ s with
      table := []
      line := { s.line with
        link := .hailing
        queue := { s.line.queue with join := s.line.queue.join.request, demand := .empty, reports := [], reportOnLine := false }
        timers := .allIdle
        lastAnnounced := 0 } } : State).zeroCommit

/-- Entering HAILING from DOWN: not admitted until an idle has been seen, and ALM is tracked (R64, R83, R103). -/
def State.hailFromDown (s : State) : State :=
  ({ s with line.admitted := false, feed := s.feed.beginTracking s.pins.almHigh } : State).enterHailing

/-- Entering HAILING at the end of MUTE: not admitted until an idle has been seen; tracking has stayed on (R64, R103). -/
def State.hailFromMute (s : State) : State := ({ s with line.admitted := false } : State).enterHailing

/-- Entering DOWN (R71, R72, R73, R99): the table is cleared, T and L are 0, the JOIN and LEAVE slots emptied, the leave timer cancelled,
veto run count and isolated flag cleared, the feed watch reset. A frame of its own on the line is finished without effect (R64). -/
def State.enterDown (s : State) : State :=
  ({ s with
      table := []
      feed := s.feed.leaveTracking
      line := { s.line with
        link := .down
        admitted := false
        queue := { s.line.queue with join := .empty, leave := .empty }
        vetoRun := 0
        timers := { s.line.timers with leave := .idle }
        isolated := false } } : State).zeroCommit

/-- The end of LEAVING (R72): DOWN, and on to HAILING in the same step when EN is high. -/
def State.endLeaving (s : State) : State :=
  let s' := s.enterDown
  if s'.pins.en then s'.hailFromDown else s'

/-- Entering LEAVING (R71): T and L are 0, the DEMAND and REPORT slots emptied, a LEAVE queued, census, heartbeat, spacing and isolation
timers cancelled, the leave timer started. The table keeps its rows (R21). -/
def State.enterLeaving (s : State) : State :=
  ({ s with
      line := { s.line with
        link := .leaving
        queue := { s.line.queue with leave := s.line.queue.leave.request, demand := .empty, reports := [], reportOnLine := false }
        timers := { s.line.timers with
          census := .idle, heartbeat := .idle, spacing := .idle, isolation := .idle, leave := .start leaveMs } } } : State).zeroCommit

/-- Entering MUTE (R73): the table is cleared, T and L are 0, every slot emptied, every timer but the mute timer cancelled, the veto run
count 0, the mute timer started. The feed watch goes on tracking. -/
def State.enterMute (s : State) : State :=
  ({ s with
      table := []
      line := { s.line with
        link := .mute
        admitted := false
        queue := .empty
        vetoRun := 0
        timers := { LifeTimers.allIdle with mute := .start muteMs } } } : State).zeroCommit

/-- Entering BARRED (R75, R99): the table is cleared, T and L are 0, every slot emptied, every timer cancelled, the veto run count 0,
the feed watch reset. -/
def State.enterBarred (s : State) : State :=
  ({ s with
      table := []
      feed := s.feed.leaveTracking
      line := { s.line with link := .barred, admitted := false, queue := .empty, vetoRun := 0, timers := .allIdle } } : State).zeroCommit

/-! ### Frames of this station on the line -/

/-- The frame offered at an idle, and the queue with its slot on the line: LEAVE, JOIN, DEMAND, then the oldest REPORT; a JOIN, DEMAND or
LEAVE is built now, a REPORT goes as it was fixed (R61). -/
def State.offer (s : State) : Option (Payload × TxQueue) :=
  let q := s.line.queue
  if q.leave = .waiting then some (.leave s.buildLeave, { q with leave := .onLine })
  else if q.join = .waiting then some (.join s.buildJoin, { q with join := .onLine })
  else if q.demand = .waiting then some (.demand s.buildDemand, { q with demand := .onLine false })
  else match q.reports with
    | r :: _ => some (.report r, { q with reportOnLine := true })
    | [] => none

/-- A station with a frame to offer begins its start mark at once while the line is idle (R61, R81; log 5). -/
def State.beginFrame (s : State) : State :=
  match s.ownNumber with
  | none => s
  | some n =>
    if s.wire.idle = true ∧ s.takesLine = true ∧ s.wire.tx = none then
      match s.offer with
      | some (p, q) =>
        { s with wire := { idle := false, tx := some { sender := BitVec.ofNat 5 n, payload := p } }, line.queue := q }
      | none => s
    else s

/-- A slot whose frame was lost or vetoed waits again (R60). -/
def Slot.requeue : Slot → Slot
  | .empty => .empty
  | .waiting => .waiting
  | .onLine => .waiting

/-- The DEMAND slot whose frame was lost or vetoed waits again, its renewed mark cleared (R60). -/
def DemandSlot.requeue : DemandSlot → DemandSlot
  | .empty => .empty
  | .waiting => .waiting
  | .onLine _ => .waiting

/-- Whatever of this station was on the line was lost in arbitration or vetoed: its slot waits (R60, R86, R94). -/
def TxQueue.requeue (q : TxQueue) : TxQueue :=
  { q with join := q.join.requeue, demand := q.demand.requeue, leave := q.leave.requeue, reportOnLine := false }

/-- A slot whose frame was accepted is emptied; one that a state rule emptied meanwhile stays as it is (R60). -/
def Slot.complete : Slot → Slot
  | .empty => .empty
  | .waiting => .waiting
  | .onLine => .empty

/-- The DEMAND slot whose frame was accepted is emptied, or waits again if it was renewed (R60). -/
def DemandSlot.complete : DemandSlot → DemandSlot
  | .empty => .empty
  | .waiting => .waiting
  | .onLine true => .waiting
  | .onLine false => .empty

/-- The station's own frame was accepted: its slot is emptied, or kept as R60 gives (R93). -/
def TxQueue.complete (q : TxQueue) : TxQueue :=
  { join := q.join.complete, demand := q.demand.complete, leave := q.leave.complete
    reports := if q.reportOnLine then q.reports.tail else q.reports
    reportOnLine := false }

/-- A frame has ended on SHL: the line is not idle before it has been high for 40 microseconds again, and no frame of this station is
on it (R82). -/
def State.lineEnds (s : State) : State := { s with wire := { idle := false, tx := none } }

/-- This station vetoes the frame of which it saw rx (R91, R96, R97): where it takes part in the line, as stationVetoes judges; where it only
finishes a frame of its own that was on the line when it entered DOWN, on a bit error alone, for a loss ends its part. DESIGN CHOICE, log 33: it
finishes that frame so in HAILING too, before it is admitted. -/
def State.vetoes (rx : Reception) (s : State) : Bool :=
  if s.takesLine then stationVetoes s.wire.tx rx else senderFate s.wire.tx rx == some .bitError

/-- A veto window sampled low, for a station that took part in the frame (R92, R95): the frame is discarded, a slot on the line waits; if
this station vetoed, its veto run count rises by 1 and at 8 it enters MUTE (R73). -/
def State.vetoWindow (mine : Bool) (s : State) : State :=
  let s' : State := { s with line.queue := s.line.queue.requeue }
  if mine then
    if vetoRunLimit ≤ s.line.vetoRun + 1 then s'.enterMute else { s' with line.vetoRun := s.line.vetoRun + 1 }
  else s'

/-- A frame whose veto window this station samples high (R92, R93). Where the station takes no part in the line, the frame has no effect
(R64, R97). A frame that this station finds out of range it vetoes (R89; log 7). Otherwise the frame is accepted: the veto run count becomes 0,
also where this station drove a veto that did not reach the wire (DESIGN CHOICE, log 30); the frame is own when it is the one this station had
on the line (R74; log 6), and its slot is completed, else whatever this station had on the line was lost; a foreign frame under the own number
leads to BARRED (R74); any other goes to `deliver`. -/
def State.acceptFrame (f : Frame) (deliver : Bool → State → State) (s : State) : State :=
  let s' := s.lineEnds
  if s.takesLine = false then s'
  else if frameInRange f = false then s'.vetoWindow true
  else
    let own := s.wire.tx == some f
    let queue := if own then s.line.queue.complete else s.line.queue.requeue
    let s1 : State := { s' with line.vetoRun := 0, line.queue := queue }
    if s.isOwnSender f.sender && !own then s1.enterBarred else deliver own s1

/-- A sender that is a station number (R4). -/
def isStationSender (sender : Sender) : Bool := decide (1 ≤ sender.toNat ∧ sender.toNat ≤ 16)

/-! ### Adoption (R108) -/

/-- The feed watch takes an accepted DEMAND: a carried stage above its own becomes its own, with the carried quiet remaining; any other
changes nothing. A carried quiet remaining of 0 leaves the timer due at once (log 10). -/
def State.adopt (b : DemandBody) (s : State) : State :=
  if s.feed.stage < b.stage.toNat then
    ({ s with feed.quiet := .running (ms (100 * b.quiet.toNat)) } : State).putStage b.stage.toNat
  else s

/-- The share table takes an accepted DEMAND of station n (R7, R8, R18). -/
def State.applyDemand (n : Nat) (b : DemandBody) (s : State) : State := s.putRowOf n (demandRow n b (findRow n s.table))

/-- An accepted DEMAND of a station goes to the share table and to the feed watch (R93). Where both act, the order is open and is taken
from a free value (R36; log 9). -/
def State.takeDemand (n : Nat) (b : DemandBody) (s : State) : State :=
  if s.feed.stage < b.stage.toNat then
    let s' : State := { s with choices := s.choices + 1 }
    if Config.adoptionFirst s.choices then (s'.adopt b).applyDemand n b else (s'.applyDemand n b).adopt b
  else s.applyDemand n b

/-! ### STAT -/

/-- The pattern is chosen again (R156, R157): a different one begins at its start, the same one runs on. -/
def State.selectPattern (s : State) : State :=
  let p := patternFor s.line.link s.bay.phase s.throttled
  if p = s.stat.pattern then s else { s with stat := statAt p 0 }

/-- The end of every step: a frame begins if the line is idle and one is offered, and the STAT pattern is chosen again. -/
def State.settle (s : State) : State := s.beginFrame.selectPattern

/-! ### Time -/

/-- A falling edge of SHL, where there was one, ends the idle (R82), whoever drove it (log 5). -/
def State.seeEdge (fell : Bool) (s : State) : State := { s with wire.idle := s.wire.idle && !fell }

/-- One conversion of 25 microseconds passes for every timer, age, credit and STAT interval (log 2). -/
def State.tick (s : State) : State :=
  { s with
    feed := { s.feed with
      drive := s.feed.drive.tick, rearm := s.feed.rearm.tick, low := s.feed.low.tick, quiet := s.feed.quiet.tick }
    line.timers :=
      { census := s.line.timers.census.tick, heartbeat := s.line.timers.heartbeat.tick, spacing := s.line.timers.spacing.tick
        isolation := s.line.timers.isolation.tick, leave := s.line.timers.leave.tick, mute := s.line.timers.mute.tick }
    table := s.table.map ageRow
    commit.hold := s.commit.hold.tick
    bay := { s.bay with
      precharge := s.bay.precharge.gain prechargeSetting (creditRate s.cfg s.commit.limit s.bay)
      charge := s.bay.charge.gain chargeSetting (creditRate s.cfg s.commit.limit s.bay) }
    stat.left := s.stat.left.tick }

/-! ### Power -/

/-- Every block at its power-on values (R58, R99, R118, R120, R125, R42, R40, R156); the pins, the fuses and the model's own fields
belong to the outside or to the model and stay. The station's own drive of SHL ends, so no frame of its own is on the line, and it has not
yet watched the line for an idle (R82; log 12). -/
def State.powerOnValues (power : Power) (tag : Tag) (s : State) : State :=
  { s with
    power := power
    tag := tag
    wire := { idle := false, tx := none }
    straps := { sa := none, sb := none }
    config := none
    scan := .atPowerOn
    store := .empty
    feed := .atPowerOn
    line := .atPowerOn
    table := []
    commit := .atPowerOn
    bay := .atPowerOn
    stat := .atPowerOn }

end Sys2Proof.Machine
end

