-- ==== Sys2Proof/Machine/Alarm.lean ====
section
/-! DEFINITION. The feed watch and the alarm line: droop detection, the ALM drive, ALM edges, the low and quiet timers (chapter 6; R100 to
R107), and the commit unit's part in an edge (R48, R49) and its raise hold. A timer that has not run out has no expiry (R53, R110; log 3). -/

namespace Sys2Proof.Machine

/-- A droop event (R101): in CENSUS or ON, with ALM high and the re-arm timer idle, the station drives ALM for 2 ms and starts the re-arm
timer; otherwise the event drives nothing and is not remembered. -/
def State.droopEvent (s : State) : State :=
  if LinkState.counted s.line.link = true ∧ s.pins.almHigh = true ∧ s.feed.rearm = .idle then
    { s with feed.drive := .start almDriveMs, feed.rearm := .start rearmMs }
  else s

/-- A FEEDV record (R100): LIMIT adds 1 to the droop count, COMPLETE sets it to 0; at 2 a droop event occurs and the count is 0 again. -/
def State.takeFeedv (r : Reading) (s : State) : State :=
  match r.ending with
  | .complete => { s with feed.droop := 0 }
  | .limit =>
    if 2 ≤ s.feed.droop + 1 then ({ s with feed.droop := 0 } : State).droopEvent
    else { s with feed.droop := s.feed.droop + 1 }

/-- The clamp of a falling edge (R48): L becomes the smaller of L and 4 units and a running raise hold is cancelled; T stays. -/
def State.clampLimit (s : State) : State :=
  if LinkState.takesAlarm s.line.link then
    s.putCommit { s.commit with limit := min s.commit.limit floorUnits, hold := .idle }
  else s

/-- The feed watch takes a falling edge while tracking (R104): quiet and low timers start, the stage steps up, to 2 at most. -/
def State.stepUp (s : State) : State :=
  if s.feed.tracking then
    ({ s with feed.quiet := .start quietMs, feed.low := .start lowMs } : State).putStage (min (s.feed.stage + 1) 2)
  else s

/-- The raise hold after a rising edge: it starts when it is idle and T is above L, the line being high (R45, R49). -/
def holdOnRise (hold : Timer) (target limit : Nat) : Timer :=
  match hold with
  | .running left => .running left
  | .idle => if limit < target then .start raiseHoldMs else .idle

/-- The commit unit's check at a rising edge (R49). -/
def State.checkOnRise (s : State) : State :=
  if LinkState.takesAlarm s.line.link then
    { s with commit.hold := holdOnRise s.commit.hold s.commit.target s.commit.limit }
  else s

/-- ALM_FALLING_EDGE (R48, R104). The clamp and the recompute of the stage give the same in either order (R55). -/
def execAlmFallingEdge (s : State) : Host.Outcome State Fault Refusal :=
  .next ({ s with pins.almHigh := false } : State).clampLimit.stepUp.settle

/-- The feed watch takes a rising edge while tracking (R106): the low timer is cancelled, the stuck flag cleared, the quiet timer starts. -/
def FeedWatch.rise (f : FeedWatch) : FeedWatch :=
  if f.tracking then { f with low := .idle, stuck := false, quiet := .start quietMs } else f

/-- ALM_RISING_EDGE (R49, R106). -/
def execAlmRisingEdge (s : State) : Host.Outcome State Fault Refusal :=
  .next ({ s with pins.almHigh := true, feed := s.feed.rise } : State).checkOnRise.settle

/-- ALM_DRIVE_END (R102): the pulse ends and the drive is released. -/
def execAlmDriveEnd (s : State) : Host.Outcome State Fault Refusal :=
  .next (if s.feed.drive.due then { s with feed.drive := .idle } else s).settle

/-- REARM_TIMER_EXPIRY (R102): the timer becomes idle, with no other effect. A droop event at the same moment may be taken before or after
it (R101). -/
def execRearmTimerExpiry (s : State) : Host.Outcome State Fault Refusal :=
  .next (if s.feed.rearm.dueByEnd then { s with feed.rearm := .idle } else s).settle

/-- LOW_TIMER_EXPIRY (R105): the stuck flag is set and the cap stage becomes 2. -/
def execLowTimerExpiry (s : State) : Host.Outcome State Fault Refusal :=
  .next (if s.feed.low.due then ({ s with feed.low := .idle, feed.stuck := true } : State).putStage 2 else s).settle

/-- The quiet timer after a step down to a stage: it restarts while the stage is still above 0 (R107). -/
def quietAfter (stage : Nat) : Timer := if 0 < stage then .start quietMs else .idle

/-- QUIET_TIMER_EXPIRY (R107): with ALM high and the stage above 0 the stage falls by 1; otherwise nothing happens and the timer is idle. -/
def execQuietTimerExpiry (s : State) : Host.Outcome State Fault Refusal :=
  .next (if s.feed.quiet.due then
      if s.pins.almHigh = true ∧ 0 < s.feed.stage then
        ({ s with feed.quiet := quietAfter (s.feed.stage - 1) } : State).putStage (s.feed.stage - 1)
      else { s with feed.quiet := .idle }
    else s).settle

/-- RAISE_HOLD_EXPIRY (R47): the hold becomes idle; with ALM high and T above L, L becomes T. -/
def execRaiseHoldExpiry (s : State) : Host.Outcome State Fault Refusal :=
  .next (if s.commit.hold.due then
      s.putCommit { s.commit with
        limit := if s.pins.almHigh = true ∧ s.commit.limit < s.commit.target then s.commit.target else s.commit.limit
        hold := .idle }
    else s).settle

end Sys2Proof.Machine
end

