-- ==== Sys2Proof/Machine/Bay.lean ====
section
/-! DEFINITION. What the bay controller does with each record it takes, and the expiry of its credits (chapters 8 and 9; R126 to R130,
R134, R136, R143 to R147). -/

namespace Sys2Proof.Machine

/-- A BAYV record that ended LIMIT (R136): BAY_OVERVOLTAGE in every phase but VACANT; in FAULT it replaces another cause. -/
def BayController.overvoltage (b : BayController) : BayController :=
  match b.phase with
  | .vacant => b
  | .fault .bayOvervoltage => b
  | .fault _ => { b with phase := .fault .bayOvervoltage }
  | .qualify | .charging _ | .done | .hold _ => b.enterFault .bayOvervoltage

/-- A BAYV record that ended COMPLETE, by phase and average (R127, R128, R130, R145). -/
def BayController.takeVoltage (c : ConfigRecord) (average : Int) (b : BayController) : BayController :=
  match b.phase with
  | .qualify =>
    if average < 3000 then { b with phase := .charging .precharge, precharge := .start }
    else if c.recharge ≤ average then { b with phase := .done }
    else { b with phase := .charging .fast, charge := .start }
  | .charging .precharge =>
    if 3000 ≤ average then { b with phase := .charging .fast, precharge := b.precharge.stop, charge := .start } else b
  | .charging .fast =>
    if c.taperEntry ≤ average then
      { b with phase := .charging .taper, termCount := 0, taperValue := capped c b.foldback c.fast }
    else b
  | .charging .taper => b
  | .done => if average < c.recharge then b.enterQualify else b
  | .fault (.chargeTimeout true) => if average < c.recharge then b.enterQualify else b
  | .fault _ => b
  | .vacant => b
  | .hold _ => b

/-- A BAYV record (R136: a LIMIT record is for the overvoltage rule alone). -/
def State.takeBayv (r : Reading) (s : State) : State :=
  match r.ending with
  | .limit => s.putBay s.bay.overvoltage
  | .complete => s.putBay (s.bay.takeVoltage s.cfg r.average)

/-- The termination judgement of a BAYI record in TAPER, after its TAPER value stands as the local demand (R129, steps 2 and 3). -/
def BayController.judgeTermination (c : ConfigRecord) (limit : Nat) (average : Int) (b : BayController) : BayController :=
  if bayThrottled c limit b = false ∧ average < c.termination then
    if 2 ≤ b.termCount + 1 then { b with phase := .done, termCount := 0, charge := b.charge.stop }
    else { b with termCount := b.termCount + 1 }
  else { b with termCount := 0 }

/-- A BAYI record (R129): in TAPER it sets the TAPER value, which becomes the local demand and is handed over, and then the record is
judged for termination; in any other phase it does nothing (log 17). -/
def State.takeBayi (r : Reading) (s : State) : State :=
  match s.bay.phase with
  | .charging .taper =>
    let value := capped s.cfg s.bay.foldback (min (taperUnits r.average) s.cfg.fast)
    let s' := s.putBay { s.bay with taperValue := value }
    match s'.bay.phase with
    | .charging .taper => s'.putBay (s'.bay.judgeTermination s'.cfg s'.commit.limit r.average)
    | _ => s'
  | _ => s

/-- Foldback after a DIET average (R134): set from 110, cleared below 100, kept between. Setting it in TAPER, or in HOLD with return phase
TAPER, limits the TAPER value to the cap (R133). -/
def BayController.takeHeat (c : ConfigRecord) (average : Int) (b : BayController) : BayController :=
  if 110 ≤ average then
    match b.phase with
    | .charging .taper | .hold .taper => { b with foldback := true, taperValue := min b.taperValue c.foldbackCap }
    | _ => { b with foldback := true }
  else if average < 100 then { b with foldback := false }
  else b

/-- A DIET average of 125 or more faults a bay that is not VACANT nor in FAULT (R134, R136); below 100 it ends a DIE_HOT fault (R146). -/
def BayController.judgeHeat (average : Int) (b : BayController) : BayController :=
  match b.phase with
  | .fault .dieHot => if average < 100 then b.enterQualify else b
  | .vacant | .fault _ => b
  | .qualify | .charging _ | .done | .hold _ => if 125 ≤ average then b.enterFault .dieHot else b

/-- A DIET record (R134, R146). -/
def State.takeDiet (r : Reading) (s : State) : State :=
  s.putBay ((s.bay.takeHeat s.cfg r.average).judgeHeat r.average)

/-- A PID record by class, phase and the class before it (R126). -/
def BayController.takePid (cls : PidClass) (b : BayController) : BayController :=
  match cls, b.phase with
  | .openPin, .vacant => b
  | .openPin, _ => b.remove
  | .valid, .vacant => if b.prevPid = some .valid then b.enterQualify else b
  | .valid, _ => b
  | .short, .fault _ => b
  | .short, _ => if b.prevPid = some .short then b.enterFault .packIdInvalid else b

/-- A PID record (R126): its class acts and is recorded as the previous one. -/
def State.takePidRecord (r : Reading) (s : State) : State :=
  let cls := pidClassOf r.average
  s.putBay { s.bay.takePid cls with prevPid := some cls }

/-- PRECHARGE_CREDIT_EXPIRY (R143, R148): the credit stops at its setting and the bay enters FAULT. A credit that does not run, or does not
reach its setting within the conversion under way, has no expiry (log 3). -/
def execPrechargeCreditExpiry (s : State) : Host.Outcome State Fault Refusal :=
  .next (if s.bay.precharge.due prechargeSetting (creditRate s.cfg s.commit.limit s.bay)
    then s.putBay s.bay.prechargeTimeout else s).settle

/-- CHARGE_CREDIT_EXPIRY (R143, R144, R148): as the precharge credit, with the full-at-timeout flag. -/
def execChargeCreditExpiry (s : State) : Host.Outcome State Fault Refusal :=
  .next (if s.bay.charge.due chargeSetting (creditRate s.cfg s.commit.limit s.bay)
    then s.putBay (s.bay.chargeTimeout (fullAtTimeout s.cfg s.store)) else s).settle

end Sys2Proof.Machine
end

