-- ==== Sys2Proof/Machine/Frames.lean ====
section
/-! DEFINITION. SHL: the idle line and admission, and each kind of frame at the end of its veto window (chapters 1, 4 and 5;
R6 to R10, R17 to R19, R61, R65, R66, R68, R72, R74, R82, R83, R90, R92, R93, R158). -/

namespace Sys2Proof.Machine

/-- The line is idle (R82): a station in HAILING that was not yet admitted is admitted (R83). An attempt of this station that no command
has ended is over, since the first idle after a frame marks its end, and its slot waits (log 19). -/
def State.seeIdle (s : State) : State :=
  { s with
    wire := { idle := true, tx := none }
    line := { s.line with queue := s.line.queue.requeue, admitted := s.line.admitted || s.line.link == .hailing } }

/-- SHL_IDLE (R61, R82, R83): admission, and the frame offered at this idle begins. -/
def execShlIdle (s : State) : Host.Outcome State Fault Refusal := .next s.seeIdle.settle

/-- ADMISSION_ON_QUIET_LINE (R83): a station in HAILING and not admitted has watched the line high for 40 microseconds since its entry; the
line is then idle (R82). In any other condition there is no such event. -/
def execAdmissionOnQuietLine (s : State) : Host.Outcome State Fault Refusal :=
  .next (if s.line.link = .hailing ∧ s.line.admitted = false then s.seeIdle.settle else s)

/-- The own JOIN accepted in HAILING (R17, R65): CENSUS, the census, heartbeat and isolation timers start, and the own row is created. -/
def State.enterCensus (n : Nat) (b : JoinBody) (s : State) : State :=
  ({ s with
      line := { s.line with
        link := .census
        timers := { s.line.timers with
          census := .start censusMs, heartbeat := .start heartbeatMs, isolation := .start isolationMs } } } : State).putRowOf n
    (joinRow n b (findRow n s.table))

/-- An accepted JOIN (R4, R6, R17, R93): one of an observer goes to no block; an own one in HAILING enters CENSUS; one of a peer station acts
on its row. -/
def State.takeJoin (sender : Sender) (b : JoinBody) (own : Bool) (s : State) : State :=
  match isStationSender sender, own, s.line.link with
  | false, _, _ => s
  | true, true, .hailing => s.enterCensus sender.toNat b
  | true, true, _ => s
  | true, false, _ => s.putRowOf sender.toNat (joinRow sender.toNat b (findRow sender.toNat s.table))

/-- JOIN. -/
def execJoin (sender : Sender) (body : JoinBody) (s : State) : Host.Outcome State Fault Refusal :=
  .next (s.acceptFrame { sender := sender, payload := .join body } (State.takeJoin sender body)).settle

/-- Station life at the acceptance of an own DEMAND in CENSUS or ON (R66, R68, R69): heartbeat, spacing and isolation timers restart; with
mode ACTIVE in ON its demand becomes the last announced one. -/
def State.announced (b : DemandBody) (s : State) : State :=
  { s with
    line := { s.line with
      timers := { s.line.timers with
        heartbeat := .start heartbeatMs, spacing := .start spacingMs, isolation := .start isolationMs }
      lastAnnounced := if s.line.link = .on ∧ b.mode = .active then b.demand.toNat else s.line.lastAnnounced } }

/-- An accepted DEMAND (R4, R7, R8, R18, R69, R76, R93, R108): one of an observer goes to no block; an own one acts on station life, the table
and the feed watch in CENSUS and ON, and reaches the feed watch alone in HAILING and LEAVING (log 28); one of a peer station goes to the share
table and the feed watch. -/
def State.takeDemandFrame (sender : Sender) (b : DemandBody) (own : Bool) (s : State) : State :=
  match isStationSender sender, own, s.line.link with
  | false, _, _ => s
  | true, false, _ => s.takeDemand sender.toNat b
  | true, true, .census | true, true, .on => (s.announced b).takeDemand sender.toNat b
  | true, true, .hailing | true, true, .leaving => s.adopt b
  | true, true, .down | true, true, .mute | true, true, .barred => s

/-- DEMAND. -/
def execDemand (sender : Sender) (body : DemandBody) (s : State) : Host.Outcome State Fault Refusal :=
  .next (s.acceptFrame { sender := sender, payload := .demand body } (State.takeDemandFrame sender body)).settle

/-- An accepted LEAVE (R4, R9, R18, R72, R93): one of an observer goes to no block; an own one in LEAVING removes the own row and ends
LEAVING; one of a peer station acts on its row. -/
def State.takeLeave (sender : Sender) (b : LeaveBody) (own : Bool) (s : State) : State :=
  match isStationSender sender, own, s.line.link with
  | false, _, _ => s
  | true, true, .leaving => (s.putRowOf sender.toNat none).endLeaving
  | true, true, _ => s
  | true, false, _ => s.putRowOf sender.toNat (leaveRow b (findRow sender.toNat s.table))

/-- LEAVE. -/
def execLeave (sender : Sender) (body : LeaveBody) (s : State) : Host.Outcome State Fault Refusal :=
  .next (s.acceptFrame { sender := sender, payload := .leave body } (State.takeLeave sender body)).settle

/-- The query service (R158, R159): a QUERY of another sender to this station, in CENSUS or ON, with fewer than four REPORT slots filled, has
its REPORT built from this moment and queued; any other is discarded. -/
def State.takeQuery (sender : Sender) (q : QueryBody) (own : Bool) (s : State) : State :=
  if own = false ∧ s.ownNumber = some q.target.toNat ∧ LinkState.counted s.line.link = true ∧ s.line.queue.reports.length < reportSlots then
    match s.snapshot q with
    | some r => { s with line.queue.reports := s.line.queue.reports ++ [{ requester := sender, content := r }] }
    | none => s
  else s

/-- QUERY. -/
def execQuery (sender : Sender) (body : QueryBody) (s : State) : Host.Outcome State Fault Refusal :=
  .next (s.acceptFrame { sender := sender, payload := .query body } (State.takeQuery sender body)).settle

/-- An accepted REPORT is taken by no block (R93); an own one has emptied its slot by its completion. -/
def State.takeReport (_own : Bool) (s : State) : State := s

/-- REPORT. -/
def execReport (sender : Sender) (body : ReportBody) (s : State) : Host.Outcome State Fault Refusal :=
  .next (s.acceptFrame { sender := sender, payload := .report body } State.takeReport).settle

/-- An accepted frame of an unassigned kind is taken by no block (R90). -/
def State.takeUnassigned (_own : Bool) (s : State) : State := s

/-- UNASSIGNED_KIND_FRAME. -/
def execUnassignedKindFrame (kind : UnassignedKind) (sender : Sender) (bytes : List Byte) (s : State) :
    Host.Outcome State Fault Refusal :=
  .next (s.acceptFrame { sender := sender, payload := .unassigned kind bytes } State.takeUnassigned).settle

/-- FRAME_VETOED (R92, R95): the frame is discarded; a station that takes part in the line counts the veto if it drove it. One that only
finishes its own frame drives its veto (State.vetoes) and counts nothing (R64, R96). -/
def execFrameVetoed (rx : Reception) (s : State) : Host.Outcome State Fault Refusal :=
  .next (if s.takesLine then s.lineEnds.vetoWindow (s.vetoes rx) else s.lineEnds).settle

end Sys2Proof.Machine
end

