-- ==== Sys2Proof/Machine/Life.lean ====
section
/-! DEFINITION. Station life: EN and the timers of the share line interface (chapter 4; R66 to R73). A timer that has not run
out has no expiry: one that was restarted or cancelled at the moment of its expiry does not expire (R76; log 3). -/

namespace Sys2Proof.Machine

/-- EN_RISE (R70): from DOWN, once the strap pass has ended, HAILING is entered; in every other state the level alone changes. -/
def execEnRise (s : State) : Host.Outcome State Fault Refusal :=
  .next (let s' : State := { s with pins.en := true }
    if s.line.link = .down ∧ s.config.isSome = true then s'.hailFromDown else s').settle

/-- EN_FALL (R71): from CENSUS or ON LEAVING is entered, from HAILING DOWN; in every other state the level alone changes. -/
def execEnFall (s : State) : Host.Outcome State Fault Refusal :=
  .next (let s' : State := { s with pins.en := false }
    match s.line.link with
    | .census | .on => s'.enterLeaving
    | .hailing => s'.enterDown
    | .down | .leaving | .mute | .barred => s').settle

/-- CENSUS_TIMER_EXPIRY (R67): from CENSUS, ON is entered and a DEMAND requested. -/
def execCensusTimerExpiry (s : State) : Host.Outcome State Fault Refusal :=
  .next (if s.line.timers.census.due then
      let s' : State := { s with line.timers.census := .idle }
      if s.line.link = .census then ({ s' with line.link := .on } : State).requestDemand true else s'
    else s).settle

/-- HEARTBEAT_TIMER_EXPIRY (R66): in CENSUS or ON a DEMAND is requested. -/
def execHeartbeatTimerExpiry (s : State) : Host.Outcome State Fault Refusal :=
  .next (if s.line.timers.heartbeat.due then
      let s' : State := { s with line.timers.heartbeat := .idle }
      if LinkState.counted s.line.link then s'.requestDemand false else s'
    else s).settle

/-- SPACING_TIMER_EXPIRY (R68): in ON the demand-change condition is judged. -/
def execSpacingTimerExpiry (s : State) : Host.Outcome State Fault Refusal :=
  .next (if s.line.timers.spacing.due then ({ s with line.timers.spacing := .idle } : State).judgeDemand else s).settle

/-- ISOLATION_TIMER_EXPIRY (R69): from CENSUS or ON the isolated flag is set and HAILING entered; the station stays admitted (R83). -/
def execIsolationTimerExpiry (s : State) : Host.Outcome State Fault Refusal :=
  .next (if s.line.timers.isolation.due then
      let s' : State := { s with line.timers.isolation := .idle }
      if LinkState.counted s.line.link then ({ s' with line.isolated := true } : State).enterHailing else s'
    else s).settle

/-- LEAVE_TIMER_EXPIRY (R72): the LEAVE slot is emptied and DOWN entered, and HAILING from there with EN high. -/
def execLeaveTimerExpiry (s : State) : Host.Outcome State Fault Refusal :=
  .next (if s.line.timers.leave.due then
      let s' : State := { s with line.timers.leave := .idle }
      if s.line.link = .leaving then s'.endLeaving else s'
    else s).settle

/-- MUTE_TIMER_EXPIRY (R73): HAILING with EN high, DOWN with EN low. -/
def execMuteTimerExpiry (s : State) : Host.Outcome State Fault Refusal :=
  .next (if s.line.timers.mute.due then
      let s' : State := { s with line.timers.mute := .idle }
      if s.line.link = .mute then (if s.pins.en then s'.hailFromMute else s'.enterDown) else s'
    else s).settle

end Sys2Proof.Machine
end

