-- ==== Sys2Proof/Machine/Power.lean ====
section
/-! DEFINITION. The supply monitor: release from power-on reset and entry into it (R58, R120, R122, R152). -/

namespace Sys2Proof.Machine

/-- POWER_ON (R58): every block takes its power-on values, the tag is read from the fuses (R152) and the strap pass begins (R120). -/
def execPowerOn (s : State) : Host.Outcome State Fault Refusal :=
  .next (s.powerOnValues .released s.fuses)

/-- SUPPLY_MONITOR_RESET (R122): the running cycle, the reading store, the strap codes and all other state are lost, the scan stands until
release, and SHL, ALM and STAT are released with GATE off (section 12.5). -/
def execSupplyMonitorReset (s : State) : Host.Outcome State Fault Refusal :=
  .next (s.powerOnValues .held 0)

end Sys2Proof.Machine
end

