-- ==== Sys2Proof/Machine/Rows.lean ====
section
/-! DEFINITION. The aging of the share table's rows: silence and release (R12 to R14). A row that is not due has no expiry (R15; log 3). -/

namespace Sys2Proof.Machine

/-- ROW_SILENCE (R12): a JOINING or ACTIVE row of 1,500 ms becomes SILENT with its grant frozen; the change is handed to the share rule. -/
def execRowSilence (station : Nat) (s : State) : Host.Outcome State Fault Refusal :=
  .next (match findRow station s.table with
    | some r => if r.silenceDue then s.putRowOf station (some (silenceRow r)) else s
    | none => s).settle

/-- SILENT_ROW_RELEASE (R13): a SILENT row of 5,000 ms and its frozen grant are removed; the removal is handed to the share rule. -/
def execSilentRowRelease (station : Nat) (s : State) : Host.Outcome State Fault Refusal :=
  .next (match findRow station s.table with
    | some r => if r.silentReleaseDue then s.putRowOf station none else s
    | none => s).settle

/-- DISPUTED_ROW_RELEASE (R14): a DISPUTED row whose dispute age is 5,000 ms and its frozen grant are removed; the removal is handed to the
share rule. -/
def execDisputedRowRelease (station : Nat) (s : State) : Host.Outcome State Fault Refusal :=
  .next (match findRow station s.table with
    | some r => if r.disputedReleaseDue then s.putRowOf station none else s
    | none => s).settle

end Sys2Proof.Machine
end

