-- ==== Sys2Proof/Machine/Scan.lean ====
section
/-! DEFINITION. The measurement scan: one conversion, the end of a cycle, the delivery of its record, and the end of the strap pass
(chapters 7 and 10; R112 to R122, R150 to R154, R59). -/

namespace Sys2Proof.Machine

/-- The link state at the end of the strap pass (R59): BARRED with invalid straps, else HAILING with EN high, else DOWN as before. -/
def State.leaveStrapPass (s : State) : State :=
  if s.ownNumber = none then s.enterBarred else if s.pins.en then s.hailFromDown else s

/-- The delivery of the STRAPC record (R121, R151, R152): the record is loaded, the scan takes the overvoltage limit, the link state is
decided, and the decoder holds nothing more. The running list begins with the next position (R120). -/
def State.endStrapPass (r : Reading) (s : State) : State :=
  let c := loadConfig s.tag s.straps.sa s.straps.sb (strapResult r)
  ({ s with config := some c, scan.overvoltage := some c.overvoltage, straps := { sa := none, sb := none } } : State).leaveStrapPass

/-- A record is delivered to the block that consumes its channel (R119). -/
def State.deliver (r : Reading) (s : State) : State :=
  match r.channel with
  | .feedv => s.takeFeedv r
  | .bayv => s.takeBayv r
  | .bayi => s.takeBayi r
  | .diet => s.takeDiet r
  | .pid => s.takePidRecord r
  | .strapa => { s with straps.sa := some (strapResult r) }
  | .strapb => { s with straps.sb := some (strapResult r) }
  | .strapc => s.endStrapPass r

/-- The end of a cycle (R116, R117, R119): the record replaces its channel's entry, the scan goes on to its next position with no sample
taken, and the record is delivered. -/
def State.endCycle (a : Accumulators) (ending : Ending) (s : State) : State :=
  let r := a.record s.scan.pos.channel ending
  ({ s with store := s.store.put r, scan.pos := s.scan.pos.next, scan.acc := .start } : State).deliver r

/-- One sample of the channel being converted (R114, R115): it joins the cycle; outside the window it ends it LIMIT, at N samples the cycle
ends COMPLETE, otherwise the cycle goes on. -/
def State.takeSample (v : Int) (s : State) : State :=
  let a := s.scan.acc.add v
  if outsideWindow s.scan.pos.channel s.scan.overvoltage v then s.endCycle a .limit
  else if s.scan.pos.samples ≤ a.count then s.endCycle a .complete
  else { s with scan.acc := a }

/-- CONVERSION (R113, R114): 25 microseconds pass, an edge seen on SHL during them ends the idle (R82; log 5), and the sample is taken. While
the part is held in reset the scan stands (R122). -/
def execConversion (input : ConversionInput) (s : State) : Host.Outcome State Fault Refusal :=
  .next (match s.power with
    | .held => s
    | .released => ((s.seeEdge input.shlFell).tick.takeSample (clampSample s.scan.pos.channel input.value)).settle)

end Sys2Proof.Machine
end

