-- ==== Sys2Proof/Machine/Stat.lean ====
section
/-! DEFINITION. The STAT output's own step (R156) and what the pins show. -/

namespace Sys2Proof.Machine

/-- STAT goes on to the next interval of its pattern, and from the last to the first (R156); off and steady have no interval. -/
def StatOutput.advance (o : StatOutput) : StatOutput :=
  match patternIntervals o.pattern with
  | [] => o
  | d :: ds => statAt o.pattern ((o.position + 1) % (d :: ds).length)

/-- STAT_PATTERN_STEP (R156), at the end of the interval shown (log 3). -/
def execStatPatternStep (s : State) : Host.Outcome State Fault Refusal :=
  .next (if s.stat.left.due then { s with stat := s.stat.advance } else s).settle

/-- STAT is on, that is driven low: throughout steady, never in off, and in the even intervals of a blink or pulse pattern (R156). -/
def StatOutput.driven (o : StatOutput) : Bool :=
  match o.pattern with
  | .off => false
  | .steady => true
  | .blink1 | .blink4 | .twoPulses | .threePulses => o.position % 2 == 0

/-- GATE drives the pass element: in PRECHARGE, FAST and TAPER only (R135). -/
def State.gate (s : State) : Bool :=
  match s.bay.phase with
  | .charging _ => true
  | .vacant | .qualify | .done | .hold _ | .fault _ => false

/-- The current in mA that the regulator holds the bay at or below (R132, R135). -/
def State.regulatedMilliamps (s : State) : Nat := 25 * bayLimit s.cfg s.commit.limit s.bay

/-- The voltage in mV that the regulator holds the bay at or below (R135, R153). -/
def State.regulatedMillivolts (s : State) : Int := s.cfg.regulation

/-- This station pulls ALM low (R102). -/
def State.drivesAlm (s : State) : Bool := s.feed.drive.isRunning

/-- What this station drives on SHL in the frame of which it sees rx (R79): the start mark and cells of its own frame, until it loses, and its
veto (R91). In every other case its driver is released. -/
def State.shlDrives (rx : Reception) (s : State) : List Drive :=
  let own :=
    match rx.sending, s.wire.tx with
    | true, some f => frameDrives f rx
    | _, _ => []
  let veto : Drive :=
    if senderFate s.wire.tx rx = some .bitError then VetoMoment.beforeWindow.drive (own.getLastD { start := 0, stop := 0 }).start
    else (receiverVeto rx).1.drive (receiverVeto rx).2
  own ++ (if s.vetoes rx then [veto] else [])

/-- The channel whose input is connected to the converter, none while the part is held in reset (R113). -/
def State.connected (s : State) : Option Channel :=
  match s.power with
  | .held => none
  | .released => some s.scan.pos.channel

/-- The current in microamps that a pin's source drives through its resistor: on PID 10, on a strap pin 20, for the conversions of that
channel's cycle and at no other time; the other inputs have no source (R113). -/
def State.sourceMicroamps (pin : Channel) (s : State) : Nat :=
  if s.connected = some pin then
    match pin with
    | .pid => 10
    | .strapa | .strapb | .strapc => 20
    | .feedv | .bayv | .bayi | .diet => 0
  else 0

/-- The voltage in mV that the source develops across a resistor in kOhm: microamps times kOhm (R113). -/
def State.developedMillivolts (pin : Channel) (kOhm : Nat) (s : State) : Nat := s.sourceMicroamps pin * kOhm

end Sys2Proof.Machine
end

