-- ==== Sys2Proof/Machine/Dispatch.lean ====
section
/-! DEFINITION. Each command and its meaning, one arm per row of spec/opcode_table.json. -/

namespace Sys2Proof.Machine

def exec (i : Instr) (s : State) : Host.Outcome State Fault Refusal :=
  match i with
  | .powerOn => Sys2Proof.Machine.execPowerOn s
  | .conversion input => Sys2Proof.Machine.execConversion input s
  | .shlIdle => Sys2Proof.Machine.execShlIdle s
  | .join sender body => Sys2Proof.Machine.execJoin sender body s
  | .demand sender body => Sys2Proof.Machine.execDemand sender body s
  | .leave sender body => Sys2Proof.Machine.execLeave sender body s
  | .query sender body => Sys2Proof.Machine.execQuery sender body s
  | .report sender body => Sys2Proof.Machine.execReport sender body s
  | .unassignedKindFrame kind sender bytes => Sys2Proof.Machine.execUnassignedKindFrame kind sender bytes s
  | .frameVetoed rx => Sys2Proof.Machine.execFrameVetoed rx s
  | .raiseHoldExpiry => Sys2Proof.Machine.execRaiseHoldExpiry s
  | .enRise => Sys2Proof.Machine.execEnRise s
  | .enFall => Sys2Proof.Machine.execEnFall s
  | .almFallingEdge => Sys2Proof.Machine.execAlmFallingEdge s
  | .almRisingEdge => Sys2Proof.Machine.execAlmRisingEdge s
  | .almDriveEnd => Sys2Proof.Machine.execAlmDriveEnd s
  | .rearmTimerExpiry => Sys2Proof.Machine.execRearmTimerExpiry s
  | .lowTimerExpiry => Sys2Proof.Machine.execLowTimerExpiry s
  | .quietTimerExpiry => Sys2Proof.Machine.execQuietTimerExpiry s
  | .censusTimerExpiry => Sys2Proof.Machine.execCensusTimerExpiry s
  | .heartbeatTimerExpiry => Sys2Proof.Machine.execHeartbeatTimerExpiry s
  | .spacingTimerExpiry => Sys2Proof.Machine.execSpacingTimerExpiry s
  | .isolationTimerExpiry => Sys2Proof.Machine.execIsolationTimerExpiry s
  | .leaveTimerExpiry => Sys2Proof.Machine.execLeaveTimerExpiry s
  | .muteTimerExpiry => Sys2Proof.Machine.execMuteTimerExpiry s
  | .rowSilence station => Sys2Proof.Machine.execRowSilence station s
  | .silentRowRelease station => Sys2Proof.Machine.execSilentRowRelease station s
  | .disputedRowRelease station => Sys2Proof.Machine.execDisputedRowRelease station s
  | .prechargeCreditExpiry => Sys2Proof.Machine.execPrechargeCreditExpiry s
  | .chargeCreditExpiry => Sys2Proof.Machine.execChargeCreditExpiry s
  | .statPatternStep => Sys2Proof.Machine.execStatPatternStep s
  | .supplyMonitorReset => Sys2Proof.Machine.execSupplyMonitorReset s
  | .admissionOnQuietLine => Sys2Proof.Machine.execAdmissionOnQuietLine s

end Sys2Proof.Machine
end

