-- ==== Sys2Proof/Safety.lean ====
section
/-! DEFINITION. What must hold of the station in every state: the invariants of the chapters, what a safe output is, and the terms in which
the statements say what a command leaves: the end of every step, a new limit at the bay, a recompute, a change of one row. -/

namespace Sys2Proof.Machine

/-- A timer idle, or running with no more left than its setting (R58). -/
def Timer.within (setting : Nat) : Timer → Prop
  | .idle => True
  | .running left => left ≤ ms setting

/-- The table is in its form: at most one row a station, in ascending order, every field in its range (R1, R2). -/
def TableInv (s : State) : Prop := tableWf s.table

/-- No timer has more left than its setting (R42, R58, R99). -/
def TimersInv (s : State) : Prop :=
  s.feed.drive.within almDriveMs ∧ s.feed.rearm.within rearmMs ∧ s.feed.low.within lowMs ∧ s.feed.quiet.within quietMs ∧
  s.line.timers.census.within censusMs ∧ s.line.timers.heartbeat.within heartbeatMs ∧ s.line.timers.spacing.within spacingMs ∧
  s.line.timers.isolation.within isolationMs ∧ s.line.timers.leave.within leaveMs ∧ s.line.timers.mute.within muteMs ∧
  s.commit.hold.within raiseHoldMs

/-- The feed watch (R99, R100, R103, R105): stage 0 to 2, and 2 while the stuck flag is set; droop count 0 or 1; the stuck flag and
the low timer only while ALM is tracked and low. -/
def FeedInv (s : State) : Prop :=
  s.feed.stage ≤ 2 ∧ s.feed.droop ≤ 1 ∧
  (s.feed.stuck = true → s.feed.stage = 2 ∧ s.pins.almHigh = false ∧ s.feed.tracking = true) ∧
  (s.feed.low.isRunning = true → s.pins.almHigh = false ∧ s.feed.tracking = true)

/-- ALM is tracked in HAILING, CENSUS, ON, LEAVING and MUTE, and not in DOWN and BARRED (R103). -/
def TrackingInv (s : State) : Prop :=
  s.feed.tracking = true ↔ s.line.link ≠ .down ∧ s.line.link ≠ .barred

/-- The commit unit (R42, R44, R50, R51): L never above T, each 0 or at least 4, both 0 with the hold idle outside CENSUS and ON, and no
hold running while ALM is low. -/
def CommitInv (s : State) : Prop :=
  s.commit.limit ≤ s.commit.target ∧
  (s.commit.limit = 0 ∨ 4 ≤ s.commit.limit) ∧ (s.commit.target = 0 ∨ 4 ≤ s.commit.target) ∧
  (LinkState.counted s.line.link = false → s.commit.target = 0 ∧ s.commit.limit = 0 ∧ s.commit.hold = .idle) ∧
  (s.commit.hold.isRunning = true → s.pins.almHigh = true)

/-- The frame is a JOIN. -/
def isJoinFrame (f : Frame) : Bool :=
  match f.payload with
  | .join _ => true
  | .demand _ | .leave _ | .query _ | .report _ | .unassigned _ _ => false

/-- The frame is a DEMAND of mode ACTIVE. -/
def isActiveDemand (f : Frame) : Bool :=
  match f.payload with
  | .demand b => b.mode == .active
  | .join _ | .leave _ | .query _ | .report _ | .unassigned _ _ => false

/-- The own station number is 1 to 16, and a frame of this station on the line bears it (R152, R165). -/
def OwnNumberInv (s : State) : Prop :=
  (∀ n, s.ownNumber = some n → 1 ≤ n ∧ n ≤ 16) ∧ ∀ f, s.wire.tx = some f → s.ownNumber = some f.sender.toNat

/-- In CENSUS the target, and with it L, is at most one floor (R38, R51): the own row is not ACTIVE there, and no DEMAND of mode ACTIVE is on
the line (R61). -/
def CensusInv (s : State) : Prop :=
  s.line.link = .census →
    s.commit.target ≤ floorUnits ∧ (∀ r, s.ownRow = some r → r.isActive = false) ∧
      ∀ f, s.wire.tx = some f → isActiveDemand f = false

/-- Which timers of station life run in which link state (R58, R63, R65, R66, R69, R71 to R73, R75). -/
def TimersByLinkInv (s : State) : Prop :=
  let w := s.line.timers
  match s.line.link with
  | .down | .hailing | .barred => w = .allIdle
  | .census => w.census.isRunning = true ∧ w.isolation.isRunning = true ∧ w.leave = .idle ∧ w.mute = .idle
  | .on => w.census = .idle ∧ w.isolation.isRunning = true ∧ w.leave = .idle ∧ w.mute = .idle
  | .leaving => w.leave.isRunning = true ∧ w = { LifeTimers.allIdle with leave := w.leave }
  | .mute => w.mute.isRunning = true ∧ w = { LifeTimers.allIdle with mute := w.mute }

/-- Every block stands at its power-on values (R40, R42, R58, R99, R125, R156); that the scan then holds no overvoltage limit is the model's choice
(log 32). -/
def AtPowerOn (s : State) : Prop :=
  s.config = none ∧ s.wire.tx = none ∧ s.feed = .atPowerOn ∧ s.line = .atPowerOn ∧ s.table = [] ∧ s.commit = .atPowerOn ∧
  s.bay = .atPowerOn ∧ s.stat = .atPowerOn ∧ s.scan.overvoltage = none

/-- A position of the strap pass (R120). -/
def ScanPos.inStrapPass : ScanPos → Bool
  | .s1 | .s2 | .s3 => true
  | .p1 | .p2 | .p3 | .p4 | .p5 | .p6 | .p7 | .p8 => false

/-- The power-on values hold through the strap pass; after it the configuration record is loaded (R58, R99, R125, R152). -/
def StrapPassInv (s : State) : Prop :=
  (s.scan.pos.inStrapPass = true → AtPowerOn s) ∧ (s.scan.pos.inStrapPass = false → s.config.isSome = true)

/-- Which credit runs or is paused, by the phase: at most one (R140). -/
def creditsMatch : Phase → CreditRun → CreditRun → Prop
  | .charging .precharge, p, c => p = .running ∧ c = .stopped
  | .hold .precharge, p, c => p = .paused ∧ c = .stopped
  | .charging .fast, p, c | .charging .taper, p, c => p = .stopped ∧ c = .running
  | .hold .fast, p, c | .hold .taper, p, c => p = .stopped ∧ c = .paused
  | .vacant, p, c | .qualify, p, c | .done, p, c | .fault _, p, c => p = .stopped ∧ c = .stopped

/-- The bay controller (R125, R129, R131, R133, R140): the local demand is the phase's, a charging phase stands only with L of 2 units or
more and HOLD only with less, the termination count is 0 or 1, credits lie within their settings and run by the phase. -/
def BayInv (s : State) : Prop :=
  s.bay.localDemand = phaseDemand s.cfg s.bay ∧
  (∀ p, s.bay.phase = .charging p → 2 ≤ s.commit.limit) ∧
  (∀ p, s.bay.phase = .hold p → s.commit.limit < 2) ∧
  s.bay.termCount ≤ 1 ∧ s.bay.taperValue ≤ 160 ∧
  0 ≤ s.bay.precharge.seconds ∧ s.bay.precharge.seconds ≤ prechargeSetting ∧
  0 ≤ s.bay.charge.seconds ∧ s.bay.charge.seconds ≤ chargeSetting ∧
  creditsMatch s.bay.phase s.bay.precharge.run s.bay.charge.run

/-- The transmit queue (R60, R62, R95): a JOIN is queued only in HAILING, a LEAVE only in LEAVING, DEMAND and REPORT only in CENSUS and ON,
at most four REPORTs; a JOIN on the line of a station that takes part in it is in its slot; the veto run is below 8; and the station is
admitted in CENSUS, ON and LEAVING, so that it stays so when isolation takes it to HAILING (R83). -/
def QueueInv (s : State) : Prop :=
  (s.line.queue.join ≠ .empty → s.line.link = .hailing) ∧
  (s.line.queue.leave ≠ .empty → s.line.link = .leaving) ∧
  (s.line.queue.demand ≠ .empty → LinkState.counted s.line.link = true) ∧
  (s.line.queue.reports ≠ [] → LinkState.counted s.line.link = true) ∧
  s.line.queue.reports.length ≤ reportSlots ∧
  (s.takesLine = true → ∀ f, s.wire.tx = some f → isJoinFrame f = true → s.line.queue.join = .onLine) ∧
  s.line.vetoRun < vetoRunLimit ∧
  (s.line.link = .census ∨ s.line.link = .on ∨ s.line.link = .leaving → s.line.admitted = true)

/-- The sample number of a channel's cycles (R117, R120). -/
def samplesOf : Channel → Nat
  | .feedv => 4 | .bayv => 8 | .bayi => 8 | .diet => 2 | .pid => 4 | .strapa => 8 | .strapb => 8 | .strapc => 8

/-- A value lies in its channel's range (R112). -/
def inRange (c : Channel) (v : Int) : Prop := (channelRange c).1 ≤ v ∧ v ≤ (channelRange c).2

/-- A reading record of a channel is one that a cycle can form (R115, R116): 1 to N samples, N when COMPLETE, LIMIT for the windowed channels
alone, average and last between min and max, which lie in the channel's range. -/
def goodReading (c : Channel) (r : Reading) : Prop :=
  r.channel = c ∧ 1 ≤ r.count ∧ r.count ≤ samplesOf c ∧ (r.ending = .complete → r.count = samplesOf c) ∧
  (r.ending = .limit → c = .feedv ∨ c = .bayv) ∧
  r.min ≤ r.average ∧ r.average ≤ r.max ∧ r.min ≤ r.last ∧ r.last ≤ r.max ∧ inRange c r.min ∧ inRange c r.max

/-- The measurement scan (R114, R116, R118): the running cycle has taken fewer samples than its N, each inside the window of its channel, and
its sum lies where their mean does; every record of the store is one that a cycle of its channel can form. -/
def ScanInv (s : State) : Prop :=
  s.scan.acc.count < s.scan.pos.samples ∧ (s.scan.acc.count = 0 → s.scan.acc.sum = 0) ∧
  (0 < s.scan.acc.count →
    inRange s.scan.pos.channel s.scan.acc.min ∧ inRange s.scan.pos.channel s.scan.acc.max ∧
    s.scan.acc.min ≤ s.scan.acc.last ∧ s.scan.acc.last ≤ s.scan.acc.max ∧
    (s.scan.pos.channel = .feedv → 4600 ≤ s.scan.acc.min) ∧
    (s.scan.pos.channel = .bayv → ∀ limit, s.scan.overvoltage = some limit → s.scan.acc.max ≤ limit) ∧
    s.scan.acc.count * s.scan.acc.min ≤ s.scan.acc.sum ∧ s.scan.acc.sum ≤ s.scan.acc.count * s.scan.acc.max) ∧
  ∀ c r, s.store.entry c = some r → goodReading c r

/-- STAT (R156, R157): it shows the pattern that R157 chooses, at one of the pattern's intervals, with no more left than that lasts. -/
def StatInv (s : State) : Prop :=
  s.stat.pattern = patternFor s.line.link s.bay.phase s.throttled ∧
  match patternIntervals s.stat.pattern with
  | [] => s.stat.position = 0 ∧ s.stat.left = .idle
  | d :: ds => ∃ e, (d :: ds)[s.stat.position]? = some e ∧ s.stat.left.isRunning = true ∧ s.stat.left.within e

/-- The table is empty in DOWN, MUTE and BARRED (R4, R21). -/
def EmptyTableInv (s : State) : Prop :=
  s.line.link = .down ∨ s.line.link = .mute ∨ s.line.link = .barred → s.table = []

/-- The bay draws no more than the committed limit, and nothing outside PRECHARGE, FAST and TAPER (R56, R135). -/
def SafeDraw (s : State) : Prop :=
  s.regulatedMilliamps ≤ 25 * s.commit.limit ∧ (s.gate = false → s.regulatedMilliamps = 0)

/-! ### The end of every step (R61, R81, R156, R157) -/

/-- The pattern that the first line of R157's table with a true condition gives. -/
def chosenPattern (u : State) : Pattern :=
  if u.line.link = .barred then .threePulses
  else if u.bay.phase.name = .fault then .twoPulses
  else if u.line.link ≠ .census ∧ u.line.link ≠ .on then .off
  else if u.bay.phase.name = .done then .steady
  else if u.bay.phase.name = .vacant ∨ u.bay.phase.name = .qualify then .off
  else if u.bay.phase.name = .hold ∨ 25 * bayLimit u.cfg u.commit.limit u.bay < 25 * u.bay.localDemand then .blink4
  else .blink1

/-- The first interval of a pattern, in ms; off and steady have none (R156). -/
def firstInterval : Pattern → Timer
  | .off | .steady => .idle
  | .blink1 => .running (ms 500)
  | .blink4 => .running (ms 125)
  | .twoPulses | .threePulses => .running (ms 100)

/-- STAT after a step that leaves everything else as in u: the chosen pattern, from its start if it is a new one (R156). -/
def StatChosen (u t : State) : Prop :=
  (chosenPattern u = u.stat.pattern → t.stat = u.stat) ∧
  (chosenPattern u ≠ u.stat.pattern →
    t.stat = { pattern := chosenPattern u, position := 0, left := firstInterval (chosenPattern u) })

/-- The quiet remaining as a DEMAND carries it (R109): steps of 100 ms, rounded up. -/
def quietSteps : Timer → Nat
  | .idle => 0
  | .running left => (left + 3999) / 4000

/-- A station of number n with an idle line to itself begins its frame (R61, R81): a LEAVE, else a JOIN, else a DEMAND, each built from u,
else the oldest REPORT as it was fixed; with no slot filled, nothing. -/
def FrameOffered (n : Nat) (u t : State) : Prop :=
  let q := u.line.queue
  let begins (p : Payload) (q' : TxQueue) : Prop :=
    t.wire = { idle := false, tx := some { sender := BitVec.ofNat 5 n, payload := p } } ∧ t.line.queue = q'
  if q.leave = .waiting then begins (.leave { tag := u.cfg.tag }) { q with leave := .onLine }
  else if q.join = .waiting then begins (.join { tag := u.cfg.tag, sb := u.cfg.sb, sc := u.cfg.sc }) { q with join := .onLine }
  else if q.demand = .waiting then
    begins (.demand
      { tag := u.cfg.tag, sb := u.cfg.sb, sc := u.cfg.sc, mode := if u.line.link = .census then .census else .active
        demand := BitVec.ofNat 8 u.bay.localDemand, stage := BitVec.ofNat 8 u.feed.stage
        quiet := BitVec.ofNat 8 (quietSteps u.feed.quiet) })
      { q with demand := .onLine false }
  else
    (∀ r rs, q.reports = r :: rs → begins (.report r) { q with reportOnLine := true }) ∧
    (q.reports = [] → t.wire = u.wire ∧ t.line.queue = q)

/-- The end of a step whose effects leave u: nothing more changes but the pattern of STAT, and, where the line is idle, the station
takes part in it and has nothing on it, the frame that it begins (R81; log 5). -/
def Settled (u t : State) : Prop :=
  t = { u with wire := t.wire, line.queue := t.line.queue, stat := t.stat } ∧ StatChosen u t ∧
  (∀ n, u.ownNumber = some n → u.wire.idle = true → u.takesLine = true → u.wire.tx = none → FrameOffered n u t) ∧
  (u.ownNumber = none ∨ u.wire.idle = false ∨ u.takesLine = false ∨ u.wire.tx ≠ none → t.wire = u.wire ∧ t.line.queue = u.line.queue)

/-! ### The bay under a limit (R56, R131, R133, R140, R148) -/

/-- A charging bay held (R131, R140): HOLD with the phase as its return phase, a running credit paused. Any other bay as it is. -/
def heldBay (b : BayController) : BayController :=
  let pause (k : Credit) : Credit := { k with run := if k.run = .running then .paused else k.run }
  match b.phase with
  | .charging p => { b with phase := .hold p, precharge := pause b.precharge, charge := pause b.charge }
  | .vacant | .qualify | .done | .hold _ | .fault _ => b

/-- The bay once it knows a limit L (R131, R136, R140, R143, R148): with L below 2 units a charging bay is held; with 2 or more a held bay
returns, or, with its credit at the setting, times out in the same step. `full` is the full-at-timeout flag (R144). -/
def bayUnder (limit : Nat) (full : Bool) (b : BayController) : BayController :=
  match b.phase with
  | .charging _ => if limit < 2 then heldBay b else b
  | .hold .precharge =>
    if limit < 2 then b
    else if prechargeSetting ≤ b.precharge.seconds then
      { b with phase := .fault .prechargeTimeout, termCount := 0, localDemand := 0, precharge.run := .stopped }
    else { b with phase := .charging .precharge, precharge.run := .running }
  | .hold p =>
    if limit < 2 then b
    else if chargeSetting ≤ b.charge.seconds then
      { b with phase := .fault (.chargeTimeout full), termCount := 0, localDemand := 0, charge.run := .stopped }
    else { b with phase := .charging p, charge.run := .running, termCount := if p = .taper then 0 else b.termCount }
  | .vacant | .qualify | .done | .fault _ => b

/-- The DEMAND slot after the bay has handed over a local demand (R68, R133): a new value in ON, with the spacing timer idle and the slot
empty, requests a DEMAND when it differs from the last announced by 4 units or more, or when one of the two is 0 and the other is not. -/
def demandSlotAfter (s : State) (demand : Nat) : DemandSlot :=
  let last := s.line.lastAnnounced
  if demand ≠ s.bay.localDemand ∧ s.line.link = .on ∧ s.line.timers.spacing = .idle ∧ s.line.queue.demand = .empty ∧
      (4 ≤ ((demand : Int) - last).natAbs ∨ (demand = 0 ∧ 0 < last) ∨ (0 < demand ∧ last = 0))
  then .waiting else s.line.queue.demand

/-- The state with a bay given whole, its local demand handed over. -/
def withBay (b : BayController) (s : State) : State :=
  { s with bay := b, line.queue.demand := demandSlotAfter s b.localDemand }

/-- The state with a commit unit given whole, its limit passed to the bay (R56). -/
def withCommit (c : CommitUnit) (s : State) : State :=
  withBay (bayUnder c.limit (fullAtTimeout s.cfg s.store) s.bay) { s with commit := c }

/-- The state with T, L and the hold cleared (R51): a charging bay is held. -/
def withNoLimit (s : State) : State := { s with commit := { target := 0, limit := 0, hold := .idle }, bay := heldBay s.bay }

/-- The bay with the local demand of its phase (R133). -/
def BayController.demanding (c : ConfigRecord) (b : BayController) : BayController := { b with localDemand := phaseDemand c b }

/-! ### A recompute and a change of one row (R16, R25, R37, R38, R43 to R46) -/

/-- A row live before and after holds a smaller grant after (R37). -/
def Lowering (before after : List Row) : Prop :=
  ∃ a ∈ before, a.live = true ∧ ∃ b ∈ after, b.station = a.station ∧ b.live = true ∧ b.grant < a.grant

/-- The raise hold after a recompute (R45, R46). -/
def HoldAfterRecompute (lowering almHigh : Prop) (target limit : Nat) (old new : Timer) : Prop :=
  (old = .idle → (almHigh ∧ limit < target → new = .running (ms raiseHoldMs)) ∧ (¬(almHigh ∧ limit < target) → new = .idle)) ∧
  ∀ left, old = .running left → (lowering → new = .running (ms raiseHoldMs)) ∧ (¬lowering → new = .running left)

/-- The own target that a table gives (R38): the grant of the own row in CENSUS and ON, and 0 otherwise. -/
def targetOf (s : State) (rows : List Row) : Nat :=
  if s.line.link = .census ∨ s.line.link = .on then
    match s.ownNumber with
    | some n => match findRow n rows with
      | some r => r.grant
      | none => 0
    | none => 0
  else 0

/-- A recompute of v (R25, R43 to R46): every grant written by the share rule, the own target taken, L lowered to it where it is above it,
the hold judged, the limit passed to the bay, and nothing else changed. `before` is the table before the event. -/
def Recomputed (before : List Row) (v u : State) : Prop :=
  let rows := recomputeRows v.table v.feed.stage
  let target := targetOf v rows
  ∃ hold, HoldAfterRecompute (Lowering before rows) (v.pins.almHigh = true) target (min v.commit.limit target) v.commit.hold hold ∧
    u = withCommit { target := target, limit := min v.commit.limit target, hold := hold } { v with table := rows }

/-- The row of station n becomes `new` (or is removed) and the share rule sees it where R16 says so. -/
def RowChanged (n : Nat) (new : Option Row) (v u : State) : Prop :=
  let v' : State := { v with table := putRow n new v.table }
  if handedOn (findRow n v.table) new = true then Recomputed v.table v' u else u = v'

/-- The cap stage becomes k and the share rule sees it where that is a change (R25). -/
def StageChanged (k : Nat) (v u : State) : Prop :=
  if k = v.feed.stage then u = v else Recomputed v.table { v with feed.stage := k } u

/-! ### Frames at this station (R60, R92, R93, R95) -/

/-- The state after a frame is accepted and before it is handed on: SHL not idle, no own frame on it, the veto run 0, the own slot
emptied where the frame was own, and waiting again where another frame won (R60, R82, R86, R93, R95). -/
def afterAccept (own : Bool) (s : State) : State :=
  { s with
    wire := { idle := false, tx := none }
    line := { s.line with vetoRun := 0, queue := if own then s.line.queue.complete else s.line.queue.requeue } }

/-- This station takes part in the line and finds the frame good: it accepts it when no party vetoes it (R92, R96). -/
def Accepts (s : State) (f : Frame) : Prop := s.takesLine = true ∧ frameInRange f = true

/-- The frame is the one this station itself sent to the end (R74; log 6). -/
def IsOwn (s : State) (f : Frame) : Prop := s.wire.tx = some f

/-- The frame bears another number than this station's (R4, R74). -/
def FromPeer (s : State) (f : Frame) : Prop := s.wire.tx ≠ some f ∧ s.ownNumber ≠ some f.sender.toNat

/-- The k-th data cell of a reception (R80, R88): an edge came within 11 microseconds of each edge before it. -/
def IsDataCell (rx : Reception) (k : Nat) (c : CellSeen) : Prop :=
  rx.cells[k]? = some c ∧ ∀ j < k, ∀ d, rx.cells[j]? = some d → d.gap ≤ 11000

/-- The data cells of a reception, high at 5 microseconds for a 1, are those of the frame, no more and no fewer (R80, R88). -/
def Spells (rx : Reception) (f : Frame) : Prop :=
  ∀ k b, (frameCells f)[k]? = some b ↔ ∃ c, IsDataCell rx k c ∧ b = decide (c.low < 5000)

/-- A low run from idle begins a frame: a start mark with a kind cell after it (R80, R81). -/
def Begins (rx : Reception) : Prop :=
  18000 ≤ rx.startLow ∧ rx.startLow ≤ 22000 ∧ rx.startGap ≤ 24500 ∧ rx.cells ≠ []

/-- What a receiver finds bad (R80, R88, R89): an early first kind cell, a cell of illegal width, an early edge, or cells that are those of no
frame in range, because they end early or run on, or for their check, their length field or a range. -/
def BadAtReceiver (rx : Reception) : Prop :=
  rx.startGap < 20500 ∨
  (∃ k c, IsDataCell rx k c ∧ ¬(1500 ≤ c.low ∧ c.low ≤ 3500) ∧ ¬(6500 ≤ c.low ∧ c.low ≤ 8500)) ∨
  (∃ k c d, IsDataCell rx k c ∧ IsDataCell rx (k + 1) d ∧ c.gap < 9000) ∨
  ∀ f, frameInRange f = true → ¬Spells rx f

/-- A data cell has a fault of cell timing (R80, R89): an illegal width, or the edge of a next data cell less than 9 microseconds after its own. -/
def FaultyCell (rx : Reception) (k : Nat) (c : CellSeen) : Prop :=
  (¬(1500 ≤ c.low ∧ c.low ≤ 3500) ∧ ¬(6500 ≤ c.low ∧ c.low ≤ 8500)) ∨ ((∃ d, IsDataCell rx (k + 1) d) ∧ c.gap < 9000)

/-- A sender of f sees its first k cells on the line as it sent them (R85, R87; the sample at 5 microseconds: log 34). -/
def SeesAsSent (f : Frame) (rx : Reception) (k : Nat) : Prop :=
  ∀ j < k, ∀ b, (frameCells f)[j]? = some b → ∃ c, IsDataCell rx j c ∧ b = decide (c.low < 5000) ∧ ¬FaultyCell rx j c

/-- A sender of f loses arbitration in its cell k: the first that it does not see as sent, a 1 in which it samples a 0 (R85). -/
def LosesIn (f : Frame) (rx : Reception) (k : Nat) : Prop :=
  SeesAsSent f rx k ∧ (frameCells f)[k]? = some true ∧ ∃ c, IsDataCell rx k c ∧ 5000 ≤ c.low

/-- A sender of f has a bit error in its cell k: the first that it does not see as sent, in which no low run came, or it sent a 0 and samples a 1, or
a fault of cell timing stands, and which is no loss (R87; an early edge after its last cell: log 35). -/
def ErrsIn (f : Frame) (rx : Reception) (k : Nat) : Prop :=
  SeesAsSent f rx k ∧ ∃ b, (frameCells f)[k]? = some b ∧
    ((¬∃ c, IsDataCell rx k c) ∨
      ∃ c, IsDataCell rx k c ∧ ((b = false ∧ c.low < 5000) ∨ FaultyCell rx k c) ∧ ¬(b = true ∧ 5000 ≤ c.low))

/-- The waveform of cells driven at their nominal times after a nominal start mark (R80, R81), at a station that sends in it or not. -/
def waveformOf (sending : Bool) (cells : List Bool) : Reception :=
  { sending := sending, startLow := 20000, startGap := 22500, cells := cells.map nominalCell }

/-- The nominal edge of the k-th data cell (R80, R81). -/
def cellEdge (k : Nat) : Nat := 22500 + 10000 * k

/-- The feed watch on entry to DOWN or BARRED (R99). -/
def restedFeed (f : FeedWatch) : FeedWatch :=
  { f with stage := 0, quiet := .idle, low := .idle, stuck := false, tracking := false }

/-- The state in BARRED (R75, R99): table, queue, timers and veto run cleared, T and L 0, the feed watch at rest. -/
def barredState (s : State) : State :=
  withNoLimit { s with
    table := [], feed := restedFeed s.feed
    line := { s.line with link := .barred, admitted := false, queue := .empty, vetoRun := 0, timers := .allIdle } }

/-- The state in MUTE (R73). -/
def muteState (s : State) : State :=
  withNoLimit { s with
    table := []
    line := { s.line with
      link := .mute, admitted := false, queue := .empty, vetoRun := 0
      timers := { LifeTimers.allIdle with mute := .running (ms muteMs) } } }

/-- The state in DOWN after HAILING, LEAVING or MUTE (R71 to R73, R99). -/
def downState (s : State) : State :=
  withNoLimit { s with
    table := [], feed := restedFeed s.feed
    line := { s.line with
      link := .down, admitted := false, vetoRun := 0, isolated := false
      queue := { s.line.queue with join := .empty, leave := .empty }
      timers := { s.line.timers with leave := .idle } } }

/-- The state in HAILING (R63): a JOIN queued, DEMAND and REPORT slots empty, table cleared, timers cancelled, T and L 0. -/
def hailingState (s : State) : State :=
  withNoLimit { s with
    table := []
    line := { s.line with
      link := .hailing, timers := .allIdle, lastAnnounced := 0
      queue := { s.line.queue with
        join := if s.line.queue.join = .empty then .waiting else s.line.queue.join
        demand := .empty, reports := [], reportOnLine := false } } }

/-- The state in HAILING when it is entered from DOWN (R64, R83, R103): not admitted, ALM tracked, the low timer running if ALM is low. -/
def hailingFromDown (s : State) : State :=
  hailingState { s with
    line.admitted := false
    feed := { s.feed with tracking := true, low := if s.pins.almHigh = true then s.feed.low else .running (ms lowMs) } }

/-- The state at the end of LEAVING (R72): DOWN, and from there HAILING when EN is high. -/
def leftState (s : State) : State := if s.pins.en = true then hailingFromDown (downState s) else downState s

/-- What share table and feed watch make of an accepted DEMAND of station n (R7, R8, R16, R93, R108). A stage not above the own one leaves
the feed watch alone; a stage above it is adopted with its quiet remaining, before or after the row changes: the order is open (R36; log 9). -/
def DemandTaken (n : Nat) (b : DemandBody) (v u : State) : Prop :=
  if b.stage.toNat ≤ v.feed.stage then RowChanged n (demandRow n b (findRow n v.table)) v u
  else
    let v' : State := { v with choices := v.choices + 1 }
    (∃ w, StageChanged b.stage.toNat { v' with feed.quiet := .running (ms (100 * b.quiet.toNat)) } w ∧
      RowChanged n (demandRow n b (findRow n w.table)) w u) ∨
    (∃ w, RowChanged n (demandRow n b (findRow n v.table)) v' w ∧
      StageChanged b.stage.toNat { w with feed.quiet := .running (ms (100 * b.quiet.toNat)) } u)

/-! ### The share rule (R26 to R33) -/

/-- The effective capacity of a table at a cap stage, its live rows' smallest feed capacity being `basis` (R27). -/
def usable (basis stage : Nat) : Nat := basis * (if stage = 0 then 100 else if stage = 1 then 75 else 50) / 100

/-- The smallest feed capacity among the live rows (R26). -/
def IsBasis (rows : List Row) (basis : Nat) : Prop :=
  (∃ r ∈ rows, r.live = true ∧ basis = 40 * (r.sc.toNat % 16 + 1)) ∧
  ∀ r ∈ rows, r.live = true → basis ≤ 40 * (r.sc.toNat % 16 + 1)

/-- What the share rule reads of a row (R24): the station, and of a live row its state, class, capacity code and, if ACTIVE, its demand, of a
reserved row its frozen grant. -/
def ruleInput (r : Row) : Nat × RowName × Nat × Nat × Nat × Nat :=
  if r.live then (r.station, r.name, r.sb.toNat / 8, r.sc.toNat % 16, if r.isActive then r.demand else 0, 0)
  else (r.station, .silent, 0, 0, 0, r.frozen)

/-- What the share rule writes into a row (R24). -/
def ruleOutput (r : Row) : Nat × Nat × Bool := (r.station, r.grant, r.starved)

/-! ### A conversion (R112 to R119) -/

/-- The sample that an input gives on a channel (R112): held at the ends of the range. -/
def sampleOf (c : Channel) (input : Int) : Int := max (channelRange c).1 (min input (channelRange c).2)

/-- A sample outside the limit window of the channel being converted (R115); none of BAYV is while no limit is taken (log 32). -/
def Outside (s : State) (v : Int) : Prop :=
  (s.scan.pos.channel = .feedv ∧ v < 4600) ∨
  (s.scan.pos.channel = .bayv ∧ ∃ limit, s.scan.overvoltage = some limit ∧ limit < v)

/-- The accumulators after one more sample (R114). -/
def sampled (a : Accumulators) (v : Int) : Accumulators :=
  if a.count = 0 then { count := 1, min := v, max := v, sum := a.sum + v, last := v }
  else { count := a.count + 1, min := min a.min v, max := max a.max v, sum := a.sum + v, last := v }

/-- This conversion ends its cycle with the record r (R114 to R116). -/
def CycleEnds (s : State) (input : Int) (r : Reading) : Prop :=
  let v := sampleOf s.scan.pos.channel input
  let a := sampled s.scan.acc v
  (Outside s v ∨ s.scan.pos.samples ≤ a.count) ∧ (r.ending = .limit ↔ Outside s v) ∧ r.channel = s.scan.pos.channel ∧
  r.count = a.count ∧ r.min = a.min ∧ r.max = a.max ∧ r.average = a.sum.tdiv a.count ∧ r.last = v

/-- A timer before and after one conversion of 25 microseconds: idle it stays idle, running it has one conversion less, down to none. -/
def OneLess (a b : Timer) : Prop := (a = .idle → b = .idle) ∧ ∀ left, a = .running left → b = .running (left - 1)

/-- One conversion of 25 microseconds passes from s to u (R113; log 2): every timer and the STAT interval have one conversion less, every age and
dispute age one more up to 5,000 ms (log 15), a running credit gains at the rate of R141 up to its setting, and nothing else changes. -/
def TimePassed (s u : State) : Prop :=
  u = { s with
    table := u.table, feed := u.feed, line.timers := u.line.timers, commit.hold := u.commit.hold
    bay := { s.bay with precharge := u.bay.precharge, charge := u.bay.charge }, stat.left := u.stat.left } ∧
  u.feed = { s.feed with drive := u.feed.drive, rearm := u.feed.rearm, low := u.feed.low, quiet := u.feed.quiet } ∧
  OneLess s.feed.drive u.feed.drive ∧ OneLess s.feed.rearm u.feed.rearm ∧ OneLess s.feed.low u.feed.low ∧
  OneLess s.feed.quiet u.feed.quiet ∧
  OneLess s.line.timers.census u.line.timers.census ∧ OneLess s.line.timers.heartbeat u.line.timers.heartbeat ∧
  OneLess s.line.timers.spacing u.line.timers.spacing ∧ OneLess s.line.timers.isolation u.line.timers.isolation ∧
  OneLess s.line.timers.leave u.line.timers.leave ∧ OneLess s.line.timers.mute u.line.timers.mute ∧
  OneLess s.commit.hold u.commit.hold ∧ OneLess s.stat.left u.stat.left ∧
  List.Forall₂ (fun a b => b = { a with age := b.age, status := b.status } ∧ b.age = min (a.age + 1) 200000 ∧
    (a.name ≠ .disputed → b.status = a.status) ∧
    ∀ f d, a.status = .disputed f d → b.status = .disputed f (min (d + 1) 200000)) s.table u.table ∧
  (s.bay.precharge.run ≠ .running → u.bay.precharge = s.bay.precharge) ∧
  (s.bay.charge.run ≠ .running → u.bay.charge = s.bay.charge) ∧
  (s.bay.precharge.run = .running → u.bay.precharge = { s.bay.precharge with
    seconds := min 1800 (s.bay.precharge.seconds + creditRate s.cfg s.commit.limit s.bay / 40000) }) ∧
  (s.bay.charge.run = .running → u.bay.charge = { s.bay.charge with
    seconds := min 14400 (s.bay.charge.seconds + creditRate s.cfg s.commit.limit s.bay / 40000) })

/-- The channel and the sample number of a scan position, and the position after it: the strap pass once, then the running list round (R117,
R120). -/
def scanList : ScanPos → Channel × Nat × ScanPos
  | .s1 => (.strapa, 8, .s2)
  | .s2 => (.strapb, 8, .s3)
  | .s3 => (.strapc, 8, .p1)
  | .p1 => (.feedv, 4, .p2)
  | .p2 => (.bayv, 8, .p3)
  | .p3 => (.feedv, 4, .p4)
  | .p4 => (.bayi, 8, .p5)
  | .p5 => (.feedv, 4, .p6)
  | .p6 => (.diet, 2, .p7)
  | .p7 => (.feedv, 4, .p8)
  | .p8 => (.pid, 4, .p1)

/-- The entry of each channel in the reading store (R118). -/
def storeEntry (t : ReadingStore) : Channel → Option Reading
  | .feedv => t.feedv
  | .bayv => t.bayv
  | .bayi => t.bayi
  | .diet => t.diet
  | .pid => t.pid
  | .strapa => t.strapa
  | .strapb => t.strapb
  | .strapc => t.strapc

/-- The state in which a record is delivered (R117 to R119): 25 microseconds on, an idle ended by an edge of SHL where one fell (R82), the
record in the store, the scan at its next position. -/
def afterCycle (fell : Bool) (r : Reading) (s : State) : State :=
  { s.tick with
    wire.idle := s.wire.idle && !fell
    store := s.store.put r
    scan := { s.scan with pos := s.scan.pos.next, acc := { count := 0, min := 0, max := 0, sum := 0, last := 0 } } }

/-! ### The bay at a record (R126 to R136, R145, R146) -/

/-- Entering FAULT (R136, R140). -/
def faulted (cause : FaultCause) (b : BayController) : BayController :=
  { b with phase := .fault cause, termCount := 0, precharge.run := .stopped, charge.run := .stopped }

/-- Entering QUALIFY (R127, R140). -/
def qualified (b : BayController) : BayController :=
  { b with phase := .qualify, precharge := { seconds := 0, run := .stopped }, charge := { seconds := 0, run := .stopped } }

/-- The bay after a BAYV record (R127, R128, R130, R136, R145), L being `limit`. -/
def bayAfterVoltage (c : ConfigRecord) (limit : Nat) (r : Reading) (b : BayController) : BayController :=
  let charge (b : BayController) : BayController := if limit < 2 then heldBay b else b
  if r.ending = .limit then
    if b.phase = .vacant then b
    else if b.phase.name = .fault then { b with phase := .fault .bayOvervoltage }
    else faulted .bayOvervoltage b
  else if b.phase = .qualify then
    if r.average < 3000 then charge { b with phase := .charging .precharge, precharge := { seconds := 0, run := .running } }
    else if r.average < c.regulation - 100 then charge { b with phase := .charging .fast, charge := { seconds := 0, run := .running } }
    else { b with phase := .done }
  else if b.phase = .charging .precharge ∧ 3000 ≤ r.average then
    { b with phase := .charging .fast, precharge.run := .stopped, charge := { seconds := 0, run := .running } }
  else if b.phase = .charging .fast ∧ c.regulation - 50 ≤ r.average then
    { b with
      phase := .charging .taper, termCount := 0
      taperValue := if b.foldback = true then min c.fast (c.fast / 2) else c.fast }
  else if (b.phase = .done ∨ b.phase = .fault (.chargeTimeout true)) ∧ r.average < c.regulation - 100 then qualified b
  else b

/-- The TAPER value of a BAYI average (R129): average x 1.25 in units of 25 mA, rounded up, at most the fast current, and at most half of it while
foldback is set. -/
def taperDemand (c : ConfigRecord) (foldback : Bool) (average : Int) : Nat :=
  let units := min ((5 * average.toNat + 99) / 100) c.fast
  if foldback = true then min units (c.fast / 2) else units

/-- The bay after the judgement of a BAYI record in TAPER (R129), its TAPER value standing as the local demand. -/
def bayAfterCurrent (c : ConfigRecord) (limit : Nat) (average : Int) (b : BayController) : BayController :=
  if b.localDemand * 25 ≤ 25 * bayLimit c limit b ∧ average < (c.fast * 25 / 10 : Nat) then
    if b.termCount = 0 then { b with termCount := 1 }
    else { b with phase := .done, termCount := 0, charge.run := .stopped }
  else { b with termCount := 0 }

/-- The bay after a DIET record (R134, R136, R146). -/
def bayAfterHeat (c : ConfigRecord) (average : Int) (b : BayController) : BayController :=
  if 110 ≤ average then
    let b' : BayController :=
      { b with
        foldback := true
        taperValue :=
          if b.phase = .charging .taper ∨ b.phase = .hold .taper then min b.taperValue (c.fast / 2) else b.taperValue }
    if 125 ≤ average ∧ b.phase ≠ .vacant ∧ b.phase.name ≠ .fault then faulted .dieHot b' else b'
  else if average < 100 then
    if b.phase = .fault .dieHot then qualified { b with foldback := false } else { b with foldback := false }
  else b

/-- The class of a PID record by its average (R126). -/
def pidClass (average : Int) : PidClass := if average < 100 then .short else if average < 2000 then .valid else .openPin

/-- The bay after a PID record (R126). -/
def bayAfterPid (average : Int) (b : BayController) : BayController :=
  let b' : BayController := { b with prevPid := some (pidClass average) }
  if pidClass average = .openPin ∧ b.phase ≠ .vacant then
    { b' with
      phase := .vacant, taperValue := 0, termCount := 0
      precharge := { seconds := 0, run := .stopped }, charge := { seconds := 0, run := .stopped } }
  else if pidClass average = .valid ∧ b.phase = .vacant ∧ b.prevPid = some .valid then qualified b'
  else if pidClass average = .short ∧ b.phase.name ≠ .fault ∧ b.prevPid = some .short then faulted .packIdInvalid b'
  else b'

/-- A strap reading of v mV lies in band n (R150). -/
def InBand (v : Int) (n : Nat) : Prop := (2399 < v ∧ n = 31) ∨ (v ≤ 2399 ∧ n * 75 ≤ v ∧ v ≤ n * 75 + 74)

end Sys2Proof.Machine
end

