-- ==== Sys2Proof/WellFormed.lean ====
section
/-! DEFINITION. Which commands are well formed: the operands lie in the ranges the spec gives them (section 12.1, R1, R89, R163). A frame
command whose fields are out of range is not refused by the machine: the station finds such a frame bad and vetoes it (log 7). -/

namespace Sys2Proof

/-- The frame whose veto window a command reports high, if it is a frame command. -/
def Instr.frame? : Instr → Option Frame
  | .join sender body => some { sender := sender, payload := .join body }
  | .demand sender body => some { sender := sender, payload := .demand body }
  | .leave sender body => some { sender := sender, payload := .leave body }
  | .query sender body => some { sender := sender, payload := .query body }
  | .report sender body => some { sender := sender, payload := .report body }
  | .unassignedKindFrame kind sender bytes => some { sender := sender, payload := .unassigned kind bytes }
  | .powerOn | .conversion _ | .shlIdle | .frameVetoed _ | .raiseHoldExpiry | .enRise | .enFall | .almFallingEdge | .almRisingEdge
  | .almDriveEnd | .rearmTimerExpiry | .lowTimerExpiry | .quietTimerExpiry | .censusTimerExpiry | .heartbeatTimerExpiry
  | .spacingTimerExpiry | .isolationTimerExpiry | .leaveTimerExpiry | .muteTimerExpiry | .rowSilence _ | .silentRowRelease _
  | .disputedRowRelease _ | .prechargeCreditExpiry | .chargeCreditExpiry | .statPatternStep | .supplyMonitorReset
  | .admissionOnQuietLine => none

/-- The station number whose row a command ages out, if it is a row command. -/
def Instr.rowStation? : Instr → Option Nat
  | .rowSilence n | .silentRowRelease n | .disputedRowRelease n => some n
  | .powerOn | .conversion _ | .shlIdle | .join _ _ | .demand _ _ | .leave _ _ | .query _ _ | .report _ _ | .unassignedKindFrame _ _ _
  | .frameVetoed _ | .raiseHoldExpiry | .enRise | .enFall | .almFallingEdge | .almRisingEdge
  | .almDriveEnd | .rearmTimerExpiry | .lowTimerExpiry | .quietTimerExpiry | .censusTimerExpiry | .heartbeatTimerExpiry
  | .spacingTimerExpiry | .isolationTimerExpiry | .leaveTimerExpiry | .muteTimerExpiry
  | .prechargeCreditExpiry | .chargeCreditExpiry | .statPatternStep | .supplyMonitorReset | .admissionOnQuietLine => none

/-- A command is well formed: its frame is in range, and its row carries a station number 1 to 16. -/
def Instr.wellFormed (i : Instr) : Bool :=
  (match i.frame? with
    | some f => Machine.frameInRange f
    | none => true) &&
  (match i.rowStation? with
    | some n => decide (1 ≤ n ∧ n ≤ 16)
    | none => true)

end Sys2Proof
end

