-- ==== Sys2Proof/Certificates/Slice0/Obligations.lean ====
section
/-! DEFINITION. The statements for the provers. Their terms (what a step leaves, a recompute, a change of one row, the states on entering a link
state, the invariants) are defined in Safety.lean. A statement about a command says that exec answers a next state, and which: `u` is what the
command's own effects leave, all of it (whatever it does not name is as in `s`), and `Settled u t` adds the end of every step. -/

open Sys2Proof Sys2Proof.Machine

/-! ### The step -/

/-- Model's convention (log 4; the queue is the model's own): a step is exec of the command at the front of the queue on the state with the
queue's rest, and with an empty queue the block idles. -/
def Obligations.StepRunsFront : Prop :=
  (∀ (c : Instr) (rest : List Instr) (s : State), s.pending = c :: rest → step s = exec c { s with pending := rest }) ∧
  ∀ s : State, s.pending = [] → step s = .next s

/-- No command stops the block, and none touches the waiting commands (the queue is the model's own, and that no command adds to it is the
model's convention, log 4) or the serial fuses. Once loaded, the configuration record changes at the supply monitor's commands alone, or at the
end of a strap pass (R152, R154); and the tag with them alone. -/
def Obligations.EveryCommandCompletes : Prop :=
  ∀ (c : Instr) (s : State), ∃ t, exec c s = .next t ∧ t.pending = s.pending ∧ t.fuses = s.fuses ∧
    (c ≠ .powerOn ∧ c ≠ .supplyMonitorReset →
      t.tag = s.tag ∧ t.power = s.power ∧ (s.scan.pos ≠ .s3 → t.config = s.config))

/-! ### Frames as cells -/

/-- Every frame with its fields in range, sent and read back cell by cell, is the frame that was sent (sections 5.2, 12.1, R164). -/
def Obligations.FrameRoundTrip : Prop :=
  ∀ f : Frame, frameInRange f = true → readFrame (frameCells f) = some f

/-- Whatever cells a receiver finds good spell exactly one frame, with every field in range, and are the cells of that frame (R88, R89, R163). -/
def Obligations.ReadFrameSound : Prop :=
  ∀ (cells : List Bool) (f : Frame), readFrame cells = some f → frameInRange f = true ∧ frameCells f = cells

/-- One cell of a good frame sampled wrong, whichever it is, and the receiver finds the frame bad (R88, R89, R164). -/
def Obligations.SingleCellErrorRefused : Prop :=
  ∀ (f : Frame) (k : Nat) (b : Bool), frameInRange f = true → (frameCells f)[k]? = some b →
    readFrame ((frameCells f).set k (!b)) = none

/-- The waveform a sender drives for a frame in range begins a frame, and no receiver finds it bad; it has 20 + 8 x L cells, and its veto window
ends 22.5 + 10 x (20 + 8 x L) + 20 microseconds after the start mark's edge (R80, R81, R84; the waveform is the nominal one: log 27). -/
def Obligations.NominalWaveformGood : Prop :=
  ∀ f : Frame, frameInRange f = true →
    beginsFrame (nominalWaveform f) = true ∧ receiverFindsBad (nominalWaveform f) = false ∧
    (nominalWaveform f).cells.length = 20 + 8 * (payloadBytes f.payload).length ∧
    (nominalWaveform f).startGap + ((nominalWaveform f).cells.map CellSeen.gap).sum + 20000 =
      22500 + 10000 * (20 + 8 * (payloadBytes f.payload).length) + 20000 ∧
    windowEnd (payloadBytes f.payload).length = 22500 + 10000 * (20 + 8 * (payloadBytes f.payload).length) + 20000

/-- The frame of the lower kind, or of the lower sender within one kind, survives arbitration, and the other has lost (R85). The sender that
survives, on the waveform of its own frame, does not veto; nor does the one that lost to a frame in range; a sender that samples a 1 where it
sent a 0 vetoes, also where it only finishes its frame in DOWN (R87, R91, R96; what a reception tells: log 8; in HAILING before admission, where
the rules leave it open: log 33). In general a sender that loses vetoes the frame where it finds it bad, if it takes part in the line; one with a
bit error, a fault of cell timing in a cell of its own among them, vetoes (a sample at the end of a low run: log 34; an early edge after its last
cell: log 35); and one that sees every cell as it sent it does not (R85, R87, R91). With a bit error it drives all its cells and then its veto,
from 10 to 30 microseconds after its last edge (R87, R91). A sender drives the start mark and every cell of its frame, and one that loses none
after the cell it lost in; a station that neither sends nor takes part drives nothing (R79 to R81, R85). -/
def Obligations.ArbitrationAndSenders : Prop :=
  (∀ f g : Frame, frameInRange f = true → frameInRange g = true →
    (kindCode f.payload).toNat < (kindCode g.payload).toNat ∨
      kindCode f.payload = kindCode g.payload ∧ f.sender.toNat < g.sender.toNat →
    contest (frameCells f) ((frameCells f).map nominalCell) = .survived ∧
    contest (frameCells g) ((frameCells f).map nominalCell) = .lost ∧
    contest (frameCells f) ((frameCells g).map nominalCell) = .bitError ∧
    stationVetoes (some f) (waveformOf true (frameCells f)) = false ∧ stationVetoes (some g) (waveformOf true (frameCells f)) = false ∧
    ∀ s : State, s.wire.tx = some g → s.vetoes (waveformOf true (frameCells f)) = false) ∧
  (∀ (f : Frame) (k : Nat) (s : State), frameInRange f = true → s.wire.tx = some f → (frameCells f)[k]? = some false →
    stationVetoes (some f) (waveformOf true ((frameCells f).set k true)) = true ∧
    s.vetoes (waveformOf true ((frameCells f).set k true)) = true) ∧
  (∀ (f : Frame) (s : State), frameInRange f = true → s.wire.tx = some f →
    let drives := s.shlDrives (waveformOf true (frameCells f))
    drives.length = 1 + (frameCells f).length ∧ drives[0]? = some { start := 0, stop := 20000 } ∧
    ∀ k b, (frameCells f)[k]? = some b →
      drives[k + 1]? = some { start := cellEdge k, stop := cellEdge k + (if b = true then 2500 else 7500) }) ∧
  (∀ (f g : Frame) (k : Nat) (s : State), frameInRange g = true → s.wire.tx = some f →
    (∀ j < k, (frameCells f)[j]? = (frameCells g)[j]?) → (frameCells f)[k]? = some true → (frameCells g)[k]? = some false →
    (s.shlDrives (waveformOf true (frameCells g))).length = k + 2) ∧
  (∀ (f : Frame) (rx : Reception) (s : State), s.wire.tx = some f → rx.sending = true → Begins rx →
    (20500 ≤ rx.startGap → (∃ k, LosesIn f rx k) →
      (stationVetoes (some f) rx = true ↔ BadAtReceiver rx) ∧
      (s.takesLine = true → (s.vetoes rx = true ↔ BadAtReceiver rx)) ∧ (s.takesLine = false → s.vetoes rx = false)) ∧
    (rx.startGap < 20500 ∨ (∃ k, ErrsIn f rx k) → stationVetoes (some f) rx = true ∧ s.vetoes rx = true) ∧
    (20500 ≤ rx.startGap → (¬∃ k, LosesIn f rx k) → (¬∃ k, ErrsIn f rx k) →
      stationVetoes (some f) rx = false ∧ s.vetoes rx = false)) ∧
  (∀ (f : Frame) (rx : Reception) (s : State), s.wire.tx = some f → rx.sending = true → Begins rx → rx.startGap = 22500 →
    (∀ c ∈ rx.cells, c.gap = 10000) → (∃ k, ErrsIn f rx k) →
    let last := cellEdge ((frameCells f).length - 1)
    s.shlDrives rx =
      { start := 0, stop := 20000 } ::
        (frameCells f).mapIdx (fun k b => { start := cellEdge k, stop := cellEdge k + (if b = true then 2500 else 7500) }) ++
        [{ start := last + 10000, stop := last + 30000 }]) ∧
  ∀ (rx : Reception) (s : State), s.takesLine = false → rx.sending = false ∨ s.wire.tx = none →
    s.vetoes rx = false ∧ s.shlDrives rx = []

/-! ### Invariants: kept by every step, in every state in which they hold -/

/-- The invariants hold right after reset. The levels of the pins and the tag are the model's choice (logs 11, 12); no clause rests on their
values. That the scan holds no overvoltage limit yet is the model's choice too (log 32), and AtPowerOn names it. -/
def Obligations.InvariantsAtReset : Prop :=
  TableInv State.reset ∧ FeedInv State.reset ∧ TrackingInv State.reset ∧ CommitInv State.reset ∧ CensusInv State.reset ∧
  OwnNumberInv State.reset ∧ BayInv State.reset ∧ TimersInv State.reset ∧ TimersByLinkInv State.reset ∧ QueueInv State.reset ∧
  ScanInv State.reset ∧ StatInv State.reset ∧ EmptyTableInv State.reset ∧ StrapPassInv State.reset ∧ AtPowerOn State.reset

/-- The share table keeps its form (R1, R2): at most one row a station, in ascending station order, every field in its range. -/
def Obligations.TableInvKept : Prop := ∀ s t : State, TableInv s → step s = .next t → TableInv t

/-- The cap stage stays 0, 1 or 2, and 2 while the stuck flag is set; the droop count 0 or 1; ALM is tracked in the link states of R103 (R99,
R100, R105). -/
def Obligations.FeedInvKept : Prop :=
  ∀ s t : State, FeedInv s → TrackingInv s → step s = .next t → FeedInv t ∧ TrackingInv t

/-- L never exceeds T, both are 0 or at least 4, both are 0 outside CENSUS and ON, and no raise hold runs while ALM is low (R42, R44, R50,
R51). -/
def Obligations.CommitInvKept : Prop := ∀ s t : State, CommitInv s → step s = .next t → CommitInv t

/-- In CENSUS the target never exceeds one floor (R38, R51), and a frame of this station on the line bears its number (R165). -/
def Obligations.CensusInvKept : Prop :=
  ∀ s t : State, StrapPassInv s → TableInv s → CommitInv s → OwnNumberInv s → CensusInv s → step s = .next t →
    OwnNumberInv t ∧ CensusInv t

/-- The local demand is the phase's, the bay charges only with L of 2 units or more and is in HOLD only with less, and the credits run by the
phase within their settings (R131, R133, R140). -/
def Obligations.BayInvKept : Prop := ∀ s t : State, StrapPassInv s → BayInv s → step s = .next t → BayInv t

/-- No timer ever has more left than its setting (R42, R58, R99), and in each link state exactly the timers of station life run that the rules
let run there (R58, R63, R65, R69, R71 to R73, R75). -/
def Obligations.TimersInvKept : Prop :=
  ∀ s t : State, step s = .next t → (TimersInv s → TimersInv t) ∧ (TimersByLinkInv s → TimersByLinkInv t)

/-- No slot of the transmit queue outlives the link state that may fill it; at most four REPORTs; the veto run stays below 8 (R60, R62, R95);
and the station is admitted in CENSUS, ON and LEAVING (R83). -/
def Obligations.QueueInvKept : Prop := ∀ s t : State, StrapPassInv s → QueueInv s → step s = .next t → QueueInv t

/-- Every record of the reading store is one that a cycle of its channel can form: 1 to N samples, average and last between min and max
(R116). -/
def Obligations.ScanInvKept : Prop := ∀ s t : State, ScanInv s → step s = .next t → ScanInv t

/-- STAT always shows the pattern that R157 chooses (R156, R157). -/
def Obligations.StatInvKept : Prop := ∀ s t : State, StatInv s → step s = .next t → StatInv t

/-- The power-on values hold through the strap pass whatever is commanded (R58, R99, R125, R154), and the table is empty in DOWN, MUTE and BARRED
(R4, R21). That no overvoltage limit is held among them is the model's choice (log 32). -/
def Obligations.StrapPassKept : Prop :=
  ∀ s t : State, StrapPassInv s → EmptyTableInv s → step s = .next t → StrapPassInv t ∧ EmptyTableInv t

/-- A change of link state is one of those of section 4.8's summary, from the states and on the conditions it gives (R59, R63 to R77): the end of
the strap pass, in DOWN (StrapPassInv rules other states out), with valid or invalid straps, the edges of EN, the expiry of a timer that has run
out (log 3), the acceptance of the own JOIN, of the own LEAVE or of a foreign frame under the own number, and the eighth veto of this station in
a row. A frame is this station's own when it equals the one it has on the line (log 6), and a frame command out of range is a frame that it
vetoes (log 7). -/
def Obligations.LinkTransitions : Prop :=
  ∀ (c : Instr) (s t : State), StrapPassInv s → exec c s = .next t → t.line.link ≠ s.line.link →
    let ownAccepted (f : Frame) : Prop := Accepts s f ∧ IsOwn s f
    let strapsRead : Prop := s.line.link = .down ∧ s.scan.pos = .s3 ∧ ∃ x r, c = .conversion x ∧ CycleEnds s x.value r
    let left : Prop := s.line.link = .leaving ∧
      ((c = .leaveTimerExpiry ∧ s.line.timers.leave = .running 0) ∨
        ∃ n b, c = .leave n b ∧ ownAccepted { sender := n, payload := .leave b })
    let muteOver : Prop := s.line.link = .mute ∧ c = .muteTimerExpiry ∧ s.line.timers.mute = .running 0
    match t.line.link with
    | .down =>
      c = .powerOn ∨ c = .supplyMonitorReset ∨ (c = .enFall ∧ s.line.link = .hailing) ∨ (left ∧ s.pins.en = false) ∨
      (muteOver ∧ s.pins.en = false)
    | .hailing =>
      (c = .enRise ∧ s.line.link = .down ∧ s.config.isSome = true) ∨ (strapsRead ∧ t.ownNumber ≠ none ∧ s.pins.en = true) ∨
      (c = .isolationTimerExpiry ∧ s.line.timers.isolation = .running 0 ∧ (s.line.link = .census ∨ s.line.link = .on) ∧
        t.line.isolated = true) ∨
      (left ∧ s.pins.en = true) ∨ (muteOver ∧ s.pins.en = true)
    | .census => s.line.link = .hailing ∧ ∃ n b, c = .join n b ∧ ownAccepted { sender := n, payload := .join b }
    | .on => s.line.link = .census ∧ c = .censusTimerExpiry ∧ s.line.timers.census = .running 0
    | .leaving => (s.line.link = .census ∨ s.line.link = .on) ∧ c = .enFall
    | .mute =>
      s.takesLine = true ∧ 7 ≤ s.line.vetoRun ∧
        ((∃ rx, c = .frameVetoed rx ∧ s.vetoes rx = true) ∨ ∃ f, c.frame? = some f ∧ frameInRange f = false)
    | .barred =>
      (strapsRead ∧ t.ownNumber = none) ∨
      ∃ f, c.frame? = some f ∧ Accepts s f ∧ s.ownNumber = some f.sender.toNat ∧ ¬IsOwn s f

/-- L rises only at the expiry of a raise hold that has run its time, with ALM high, and then to the whole of T (R47, R50, R53). -/
def Obligations.LimitRisesOnlyAtHoldExpiry : Prop :=
  ∀ (c : Instr) (s t : State), exec c s = .next t → s.commit.limit < t.commit.limit →
    c = .raiseHoldExpiry ∧ s.commit.hold = .running 0 ∧ s.pins.almHigh = true ∧ t.commit.limit = s.commit.target

/-- The limit that the regulator keeps the bay current at or below is, in PRECHARGE, FAST and TAPER, the smallest of L, the phase current and,
while foldback is set, the foldback cap, and 0 in every other phase; so it is never above L (R56, R132, R135). The bay voltage it keeps at or below
4,200 mV with profile 0 and 4,350 mV with profile 1 (R135, R153). These are the limits to keep, not the current drawn, which the model leaves out
(log 20). -/
def Obligations.SafeDrawAlways : Prop :=
  ∀ s : State, SafeDraw s ∧
    (s.gate = true ↔ s.bay.phase.name = .precharge ∨ s.bay.phase.name = .fast ∨ s.bay.phase.name = .taper) ∧
    (s.gate = true →
      let current := if s.bay.phase.name = .precharge then s.cfg.prechargeCurrent else s.cfg.fast
      (s.bay.foldback = false → s.regulatedMilliamps = 25 * min s.commit.limit current) ∧
      (s.bay.foldback = true → s.regulatedMilliamps = 25 * min (min s.commit.limit current) (s.cfg.fast / 2))) ∧
    (s.gate = false → s.regulatedMilliamps = 0) ∧
    s.regulatedMillivolts = if s.cfg.sc.toNat < 16 then 4200 else 4350

/-! ### The share rule -/

/-- The grants of the live rows sum to no more than the effective capacity less the frozen grants, and to 0 where that difference is below 4
units; a sum that falls short of it leaves every row that is not starved satisfied, and no more than 3 units where a row is starved (R26 to R28,
R35). -/
def Obligations.GrantSumBounded : Prop :=
  ∀ (rows : List Row) (stage basis : Nat), tableWf rows → IsBasis rows basis →
    let after := recomputeRows rows stage
    let sum := ((after.filter Row.live).map Row.grant).sum
    let difference : Int := (usable basis stage : Int) - ((rows.filter fun r => !r.live).map Row.frozen).sum
    (4 ≤ difference → (sum : Int) ≤ difference) ∧ (difference < 4 → sum = 0) ∧
    (4 ≤ difference → (sum : Int) < difference →
      (∀ a ∈ after, a.isActive = true → a.starved = false → a.grant = max a.demand 4) ∧
      ((∃ a ∈ after, a.starved = true) → difference - sum ≤ 3))

/-- A recompute writes grant and starved mark of the live rows and nothing else (R24), and each grant has the form of R34: 0 for a starved row,
the floor for a JOINING one, and from 4 units to the larger of demand and 4 for an ACTIVE one. -/
def Obligations.GrantForms : Prop :=
  ∀ (rows : List Row) (stage : Nat), tableWf rows →
    List.Forall₂ (fun old new =>
      new.station = old.station ∧ new.name = old.name ∧ new.tag = old.tag ∧ new.sb = old.sb ∧ new.sc = old.sc ∧
      new.demand = old.demand ∧ new.age = old.age ∧ (old.live = false → new = old) ∧
      (new.live = true →
        (new.starved = true → new.grant = 0) ∧
        (new.starved = false → new.isActive = false → new.grant = 4) ∧
        (new.starved = false → new.isActive = true → 4 ≤ new.grant ∧ new.grant ≤ max new.demand 4) ∧ new.grant ≤ 160))
      rows (recomputeRows rows stage)

/-- The result of a recompute depends on the inputs that R24 lists and on nothing else: not on earlier grants or marks, tags, fast codes,
profiles or ages. -/
def Obligations.GrantsFollowInputsAlone : Prop :=
  ∀ (rows rows' : List Row) (stage : Nat), tableWf rows → tableWf rows' → rows.map ruleInput = rows'.map ruleInput →
    (recomputeRows rows stage).map ruleOutput = (recomputeRows rows' stage).map ruleOutput

/-- A starved row's grant is 0, and the starved rows are the last of the floor order, by class and then station (R29, R30); with 4 units for
every live row none is starved, and with fewer than 4 in all every live row is. -/
def Obligations.StarvedRowsLast : Prop :=
  ∀ (rows : List Row) (stage basis : Nat), tableWf rows → IsBasis rows basis →
    let after := recomputeRows rows stage
    let start := usable basis stage - ((rows.filter fun r => !r.live).map Row.frozen).sum
    (∀ a ∈ after, a.starved = true → a.grant = 0) ∧
    (∀ a ∈ after, ∀ b ∈ after, a.live = true → b.live = true → a.starved = true →
      (a.classNo < b.classNo ∨ (a.classNo = b.classNo ∧ a.station < b.station)) → b.starved = true) ∧
    (4 * (rows.filter Row.live).length ≤ start → ∀ a ∈ after, a.starved = false) ∧
    (start < 4 → ∀ a ∈ after, a.live = true → a.starved = true ∧ a.grant = 0)

/-- A row of a lower class receives excess only when every ACTIVE row of the higher classes that is not starved is satisfied (R31). -/
def Obligations.HigherClassesFirst : Prop :=
  ∀ (rows : List Row) (stage : Nat), tableWf rows →
    let after := recomputeRows rows stage
    ∀ a ∈ after, ∀ b ∈ after, a.isActive = true → a.starved = false → b.live = true →
      a.classNo < b.classNo → 4 < b.grant → a.grant = max a.demand 4

/-- Within one class the excess is shared evenly (R32, R33): two rows that took part differ by more than the odd unit only where the smaller is
satisfied, and the odd units go to the lower station numbers. -/
def Obligations.EvenWithinClass : Prop :=
  ∀ (rows : List Row) (stage : Nat), tableWf rows →
    let after := recomputeRows rows stage
    ∀ a ∈ after, ∀ b ∈ after, a.isActive = true → b.isActive = true → a.starved = false → b.starved = false →
      a.classNo = b.classNo →
      (a.grant + 1 < b.grant → a.grant = max a.demand 4) ∧
      (a.station < b.station → a.grant < b.grant → a.grant = max a.demand 4)

/-- The rows that accepted frames make of the sender's row (R5 to R11): created, reset, disputed, or removed; and the change reaches no other row
(R1). A change of one row is handed to the share rule when the row is created or removed or its state, demand, class or capacity code changes, and
not otherwise (R16). -/
def Obligations.FrameRowRules : Prop :=
  (∀ (n : Nat) (j : JoinBody), joinRow n j none = some (newRow n (.joining 0 false) j.tag j.sb j.sc 0)) ∧
  (∀ (n : Nat) (d : DemandBody), demandRow n d none =
    some (newRow n (if d.mode = .active then .active 0 false else .joining 0 false) d.tag d.sb d.sc
      (if d.mode = .active then d.demand.toNat else 0))) ∧
  (∀ l : LeaveBody, leaveRow l none = none) ∧
  (∀ (n : Nat) (j : JoinBody) (r : Row), r.name ≠ .disputed →
    ∃ r', joinRow n j (some r) = some r' ∧ r'.station = r.station ∧ r'.name = .joining ∧ r'.tag = j.tag ∧ r'.sb = j.sb ∧ r'.sc = j.sc ∧
      r'.demand = 0 ∧ r'.age = 0 ∧ r'.frozen = 0 ∧ r'.grant = r.grant) ∧
  (∀ (n : Nat) (d : DemandBody) (r : Row), r.name ≠ .disputed → r.tag = d.tag →
    ∃ r', demandRow n d (some r) = some r' ∧ r'.station = r.station ∧
      r'.name = (if d.mode = .active then RowName.active else RowName.joining) ∧ r'.tag = r.tag ∧
      r'.sb = d.sb ∧ r'.sc = d.sc ∧ r'.demand = (if d.mode = .active then d.demand.toNat else 0) ∧ r'.age = 0 ∧ r'.frozen = 0 ∧
      r'.grant = r.grant) ∧
  (∀ (l : LeaveBody) (r : Row), r.name ≠ .disputed → r.tag = l.tag → leaveRow l (some r) = none) ∧
  (∀ (n : Nat) (j : JoinBody) (d : DemandBody) (l : LeaveBody) (r : Row),
    let disputed : Row := { r with status := .disputed (if r.live = true then r.grant else r.frozen) 0, age := 0 }
    (r.name ≠ .disputed → r.tag ≠ d.tag → demandRow n d (some r) = some disputed) ∧
    (r.name ≠ .disputed → r.tag ≠ l.tag → leaveRow l (some r) = some disputed) ∧
    (r.name = .disputed →
      joinRow n j (some r) = some disputed ∧ demandRow n d (some r) = some disputed ∧ leaveRow l (some r) = some disputed)) ∧
  (∀ old new : Option Row, handedOn old new = true ↔
    (old = none ∧ new ≠ none) ∨ (old ≠ none ∧ new = none) ∨
    ∃ a b, old = some a ∧ new = some b ∧
      (a.name ≠ b.name ∨ a.demand ≠ b.demand ∨ a.sb.toNat / 8 ≠ b.sb.toNat / 8 ∨ a.sc.toNat % 16 ≠ b.sc.toNat % 16)) ∧
  (∀ (n m : Nat) (new : Option Row) (rows : List Row), tableWf rows → (∀ r, new = some r → r.station = n) →
    findRow n (putRow n new rows) = new ∧ (m ≠ n → findRow m (putRow n new rows) = findRow m rows))

/-! ### Power and the measurement scan -/

/-- POWER_ON and SUPPLY_MONITOR_RESET leave every block at its power-on values with the store empty and the scan before position S1 (R58, R99,
R118, R120, R122, R125); POWER_ON reads the tag from the fuses (R152). The model's choices: the zeros of a cycle with no sample (log 25),
that no overvoltage limit is held (log 32), that the pins keep their levels and SHL is not yet idle (log 12), that the counter of free choices
stays (log 9), and that POWER_ON acts on a released part too (log 13). -/
def Obligations.PowerOnValues : Prop :=
  ∀ (c : Instr) (s : State), c = .powerOn ∨ c = .supplyMonitorReset →
    ∃ t, exec c s = .next t ∧ AtPowerOn t ∧ t.scan = .atPowerOn ∧ t.store = .empty ∧ t.straps = { sa := none, sb := none } ∧
      (c = .powerOn → t.power = .released ∧ t.tag = s.fuses) ∧ (c = .supplyMonitorReset → t.power = .held) ∧
      t.fuses = s.fuses ∧ t.pins = s.pins ∧ t.wire = { idle := false, tx := none } ∧ t.choices = s.choices ∧ t.pending = s.pending

/-- A conversion that does not end its cycle adds its sample to it (R112 to R115), and 25 microseconds pass: every running timer and STAT
interval has one conversion less, every age one more up to 5,000 ms, a running credit gains at the rate of R141 up to its setting, an idle of
SHL ends where an edge fell (R82), and nothing else changes (the passing of time, and of edges, with CONVERSION: logs 2, 5; the saturated ages:
log 15). While the part is held in reset nothing happens (R122). The scan goes through the strap pass once and then round the running list, each
position with its channel and sample number (R117, R120), and a record replaces the entry of its own channel in the store and no other (R118). PID
and the strap pins carry their sources, 10 and 20 microamps, exactly while the scan converts their channel (R113). In a state that no run reaches,
a BAYV cycle with no overvoltage limit taken, a sample counts as inside (log 32). -/
def Obligations.ConversionInsideCycle : Prop :=
  (∀ (pin : Channel) (kOhm : Nat) (s : State),
    (s.power = .released → s.scan.pos.channel = pin →
      s.developedMillivolts pin kOhm =
        if pin = .pid then 10 * kOhm else if pin = .strapa ∨ pin = .strapb ∨ pin = .strapc then 20 * kOhm else 0) ∧
    (s.power = .held ∨ s.scan.pos.channel ≠ pin → s.sourceMicroamps pin = 0)) ∧
  (∀ p : ScanPos, (p.channel, p.samples, p.next) = scanList p) ∧
  (∀ (store : ReadingStore) (r : Reading) (c : Channel),
    store.entry c = storeEntry store c ∧ storeEntry (store.put r) c = if c = r.channel then some r else storeEntry store c) ∧
  (∀ s : State, TimePassed s s.tick) ∧
  (∀ (input : Int) (fell : Bool) (s : State), s.power = .held → exec (.conversion { value := input, shlFell := fell }) s = .next s) ∧
  ∀ (input : Int) (fell : Bool) (s : State), s.power = .released → ¬Outside s (sampleOf s.scan.pos.channel input) →
    s.scan.acc.count + 1 < s.scan.pos.samples →
    ∃ t, exec (.conversion { value := input, shlFell := fell }) s = .next t ∧
      Settled { s.tick with
        wire.idle := s.wire.idle && !fell
        scan := { s.scan with acc := sampled s.scan.acc (sampleOf s.scan.pos.channel input) } } t

/-- The rate of a running credit (R141): between 1/2 and 1 in the charging phases of a bay under its invariant, and the larger of 1/2 and the
quotient that R141's table gives. -/
def Obligations.CreditRates : Prop :=
  ∀ s : State, BayInv s → ∀ p, s.bay.phase = .charging p →
    let limit : Rat := 25 * bayLimit s.cfg s.commit.limit s.bay
    let rate := creditRate s.cfg s.commit.limit s.bay
    1 / 2 ≤ rate ∧ rate ≤ 1 ∧
    (p ≠ .taper → rate = max (limit / (25 * phaseCurrent s.cfg s.bay.phase)) (1 / 2)) ∧
    (p = .taper → s.throttled = false → rate = 1) ∧
    (p = .taper → s.throttled = true → rate = max (limit / (25 * s.bay.localDemand)) (1 / 2))

/-- A FEEDV record (R100, R101): COMPLETE clears the droop count, LIMIT raises it, and at 2 it is 0 again and, in CENSUS or ON with ALM high and
the re-arm timer idle, ALM is driven for 2 ms and the re-arm timer runs 50 ms. -/
def Obligations.FeedvRecord : Prop :=
  ∀ (input : Int) (fell : Bool) (s : State) (r : Reading), s.power = .released → s.scan.pos.channel = .feedv → CycleEnds s input r →
    let v := afterCycle fell r s
    ∃ u t, exec (.conversion { value := input, shlFell := fell }) s = .next t ∧ Settled u t ∧
      (r.ending = .complete → u = { v with feed.droop := 0 }) ∧
      (r.ending = .limit → s.feed.droop = 0 → u = { v with feed.droop := 1 }) ∧
      (r.ending = .limit → 1 ≤ s.feed.droop →
        ((s.line.link = .census ∨ s.line.link = .on) ∧ s.pins.almHigh = true ∧ s.feed.rearm = .idle →
          u = { v with feed.droop := 0, feed.drive := .running (ms 2), feed.rearm := .running (ms 50) }) ∧
        (¬((s.line.link = .census ∨ s.line.link = .on) ∧ s.pins.almHigh = true ∧ s.feed.rearm = .idle) →
          u = { v with feed.droop := 0 }))

/-- A BAYV record (R127, R128, R130, R131, R133, R136, R145). With no overvoltage limit taken, which no run reaches in a BAYV cycle, no sample ends it
LIMIT (log 32). -/
def Obligations.BayvRecord : Prop :=
  ∀ (input : Int) (fell : Bool) (s : State) (r : Reading), BayInv s → s.power = .released → s.scan.pos.channel = .bayv → CycleEnds s input r →
    ∃ t, exec (.conversion { value := input, shlFell := fell }) s = .next t ∧
      let v := afterCycle fell r s
      Settled (withBay ((bayAfterVoltage s.cfg s.commit.limit r v.bay).demanding s.cfg) v) t

/-- A BAYI record (R129, R133): in TAPER the TAPER value becomes the local demand and is handed over, and then the record is judged for
termination; in any other phase it does nothing (two hand-overs where it ends the charge: log 17). -/
def Obligations.BayiRecord : Prop :=
  ∀ (input : Int) (fell : Bool) (s : State) (r : Reading), BayInv s → s.power = .released → s.scan.pos.channel = .bayi → CycleEnds s input r →
    let v := afterCycle fell r s
    let value := taperDemand s.cfg s.bay.foldback r.average
    let b : BayController := { v.bay with taperValue := value, localDemand := value }
    ∃ t, exec (.conversion { value := input, shlFell := fell }) s = .next t ∧
      (s.bay.phase ≠ .charging .taper → Settled v t) ∧
      (s.bay.phase = .charging .taper →
        Settled (withBay ((bayAfterCurrent s.cfg s.commit.limit r.average b).demanding s.cfg) (withBay b v)) t)

/-- A DIET record (R133, R134, R136, R146). -/
def Obligations.DietRecord : Prop :=
  ∀ (input : Int) (fell : Bool) (s : State) (r : Reading), BayInv s → s.power = .released → s.scan.pos.channel = .diet → CycleEnds s input r →
    ∃ t, exec (.conversion { value := input, shlFell := fell }) s = .next t ∧
      let v := afterCycle fell r s
      Settled (withBay ((bayAfterHeat s.cfg r.average v.bay).demanding s.cfg) v) t

/-- A PID record (R126, R136, R147). -/
def Obligations.PidRecord : Prop :=
  ∀ (input : Int) (fell : Bool) (s : State) (r : Reading), BayInv s → s.power = .released → s.scan.pos.channel = .pid → CycleEnds s input r →
    ∃ t, exec (.conversion { value := input, shlFell := fell }) s = .next t ∧
      let v := afterCycle fell r s
      Settled (withBay ((bayAfterPid r.average v.bay).demanding s.cfg) v) t

/-- A STRAPA or STRAPB record (R150): the strap's code is the band of its average, and it is stable when min and max lie in one band. -/
def Obligations.StrapRecord : Prop :=
  ∀ (input : Int) (fell : Bool) (s : State) (r : Reading), ScanInv s → s.power = .released → s.scan.pos = .s1 ∨ s.scan.pos = .s2 →
    CycleEnds s input r →
    ∃ t, exec (.conversion { value := input, shlFell := fell }) s = .next t ∧ ∃ res : StrapResult, InBand r.average res.code.toNat ∧
      (res.stable = true ↔ ∃ n, n < 32 ∧ InBand r.min n ∧ InBand r.max n) ∧
      let v := afterCycle fell r s
      (s.scan.pos = .s1 → Settled { v with straps.sa := some res } t) ∧
      (s.scan.pos = .s2 → Settled { v with straps.sb := some res } t)

/-- The end of the strap pass (R59, R120, R121, R151 to R153): the configuration record is loaded, from the straps when all three are stable and
SA's code is 1 to 16, else with the fixed values; the scan takes the overvoltage limit; the station enters BARRED, HAILING or stays in DOWN. -/
def Obligations.StrapPassEnd : Prop :=
  ∀ (input : Int) (fell : Bool) (s : State) (r : Reading), ScanInv s → StrapPassInv s → s.power = .released → s.scan.pos = .s3 →
    CycleEnds s input r →
    ∃ t, exec (.conversion { value := input, shlFell := fell }) s = .next t ∧ ∃ (code : Code), InBand r.average code.toNat ∧
      let valid (a b : StrapResult) : Prop := s.straps.sa = some a ∧ s.straps.sb = some b ∧ a.stable = true ∧ b.stable = true ∧
        (∃ n, n < 32 ∧ InBand r.min n ∧ InBand r.max n) ∧ 1 ≤ a.code.toNat ∧ a.code.toNat ≤ 16
      let loaded (c : ConfigRecord) : State := { afterCycle fell r s with
        config := some c, straps := { sa := none, sb := none }
        scan := { (afterCycle fell r s).scan with overvoltage := some (if 16 ≤ c.sc.toNat then 4450 else 4300) } }
      (∀ a b, valid a b →
        let c : ConfigRecord := { station := some a.code.toNat, tag := s.tag, sb := b.code, sc := code }
        (s.pins.en = true → Settled (hailingFromDown (loaded c)) t) ∧ (s.pins.en = false → Settled (loaded c) t)) ∧
      ((∀ a b, ¬valid a b) → Settled (barredState (loaded { station := none, tag := s.tag, sb := 0, sc := 0 })) t)

/-! ### SHL: the idle and the frames -/

/-- SHL_IDLE and ADMISSION_ON_QUIET_LINE (R60, R81 to R83): the line is idle, a station in HAILING is admitted, and a frame is offered. A frame
of this station that no command ended is over and its slot waits (log 19); a filled slot's frame begins at once while the line is idle (log 5);
ADMISSION in any other condition is no event (R83). -/
def Obligations.IdleAdmitsAndOffers : Prop :=
  ∀ (c : Instr) (s : State), c = .shlIdle ∨ c = .admissionOnQuietLine →
    ∃ t, exec c s = .next t ∧
      (c = .shlIdle ∨ (s.line.link = .hailing ∧ s.line.admitted = false) →
        Settled { s with
          wire := { idle := true, tx := none }
          line := { s.line with
            queue := s.line.queue.requeue, admitted := if s.line.link = .hailing then true else s.line.admitted } } t) ∧
      (c = .admissionOnQuietLine → ¬(s.line.link = .hailing ∧ s.line.admitted = false) → t = s)

/-- A frame of any kind, accepted or vetoed by the rest, has no effect at a station that takes no part in the line but to end on it: DOWN, MUTE,
BARRED, and HAILING before admission (R4, R64, R83, R96, R97). -/
def Obligations.UnheardFrame : Prop :=
  (∀ s : State, s.takesLine = false ↔
    s.line.link = .down ∨ s.line.link = .mute ∨ s.line.link = .barred ∨ (s.line.link = .hailing ∧ s.line.admitted = false)) ∧
  ∀ (c : Instr) (s : State), (c.frame?.isSome = true ∨ ∃ rx, c = .frameVetoed rx) → s.takesLine = false →
    ∃ t, exec c s = .next t ∧ Settled { s with wire := { idle := false, tx := none } } t

/-- Model's convention (log 7): a frame command whose fields are out of range is a frame that this station itself vetoes (R89, R91, R95, R163):
discarded, the slots wait, the veto run rises, and at 8 the station enters MUTE (R73). -/
def Obligations.FrameOutOfRange : Prop :=
  ∀ (c : Instr) (s : State) (f : Frame), BayInv s → c.frame? = some f → s.takesLine = true → frameInRange f = false →
    ∃ t, exec c s = .next t ∧
      let v : State := { s with wire := { idle := false, tx := none }, line.queue := s.line.queue.requeue }
      (s.line.vetoRun < 7 → Settled { v with line.vetoRun := s.line.vetoRun + 1 } t) ∧
      (7 ≤ s.line.vetoRun → Settled (muteState v) t)

/-- An accepted frame of any kind under the own number that this station did not itself send leads to BARRED, and is not applied (R19, R74, R75,
R90, R99); own is what equals the frame this station has on the line (log 6). A frame command is an acceptance also where this station had a bit
error in a frame of its own (log 30). -/
def Obligations.DuplicateBars : Prop :=
  ∀ (c : Instr) (s : State) (f : Frame), BayInv s → c.frame? = some f → Accepts s f → ¬IsOwn s f →
    s.ownNumber = some f.sender.toNat →
    ∃ t, exec c s = .next t ∧ Settled (barredState (afterAccept false s)) t

/-- A frame vetoed on the line changes nothing at a station that took part in it, except that its own slot waits, and that the veto run of a
station that itself vetoed rises by 1 and at 8 leads to MUTE (R60, R73, R92, R94, R95). A low run from idle that begins no frame no party vetoes,
the station that sent in it included (R80, R81), so it leaves the veto run as it is (R95); a station that sent and on whose line nothing fell
vetoes its own frame (R87, R98; log 29), also one that it only finishes (in HAILING before admission: log 33). A slot whose frame was lost or
vetoed waits, its renewed mark cleared, and every other slot and every REPORT stays as it is (R60). A receiver vetoes exactly a frame that it
finds bad, and no good one (R88, R89, R91). It drives the interval that R91 gives: for a cell wrong in the frame, for cells that end within the
header, and for an edge 10 microseconds after the last cell's (one that comes earlier: log 31); and a window is vetoed when some drive holds the
line low at one of its two samples (R79, R91; a low run or a drive that ends at the very instant of a sample: log 34). -/
def Obligations.VetoedFrame : Prop :=
  (∀ q : TxQueue, q.requeue =
    { join := if q.join = .onLine then .waiting else q.join
      leave := if q.leave = .onLine then .waiting else q.leave
      demand := match q.demand with
        | .onLine _ => .waiting
        | .waiting => .waiting
        | .empty => .empty
      reports := q.reports, reportOnLine := false }) ∧
  (∀ (rx : Reception) (s : State), BayInv s → s.takesLine = true →
    ∃ t, exec (.frameVetoed rx) s = .next t ∧
      let v : State := { s with wire := { idle := false, tx := none }, line.queue := s.line.queue.requeue }
      (stationVetoes s.wire.tx rx = false → Settled v t) ∧
      (stationVetoes s.wire.tx rx = true → s.line.vetoRun < 7 → Settled { v with line.vetoRun := s.line.vetoRun + 1 } t) ∧
      (stationVetoes s.wire.tx rx = true → 7 ≤ s.line.vetoRun → Settled (muteState v) t)) ∧
  (∀ (tx : Option Frame) (rx : Reception), rx.sending = false → (stationVetoes tx rx = true ↔ Begins rx ∧ BadAtReceiver rx)) ∧
  (∀ (tx : Option Frame) (rx : Reception) (s : State), 0 < rx.startLow → ¬Begins rx →
    stationVetoes tx rx = false ∧ s.vetoes rx = false) ∧
  (∀ (f : Frame) (rx : Reception) (s : State), s.wire.tx = some f → rx.sending = true → rx.startLow = 0 → rx.cells = [] →
    stationVetoes (some f) rx = true ∧ s.vetoes rx = true) ∧
  (∀ (f : Frame) (s : State), frameInRange f = true → s.takesLine = true →
    let n := (frameCells f).length
    s.shlDrives (waveformOf false (frameCells f)) = [] ∧
    (∀ k b, (frameCells f)[k]? = some b → k < 8 ∨ 12 ≤ k →
      s.shlDrives (waveformOf false ((frameCells f).set k (!b))) =
        [{ start := cellEdge (n - 1) + 10000, stop := cellEdge (n - 1) + 30000 }]) ∧
    (∀ k, 1 ≤ k → k < 20 →
      s.shlDrives (waveformOf false ((frameCells f).take k)) =
        [{ start := cellEdge (k - 1) + 11000, stop := cellEdge (k - 1) + 30000 }]) ∧
    ∀ b, s.shlDrives (waveformOf false (frameCells f ++ [b])) = [{ start := cellEdge n, stop := cellEdge n + 20000 }]) ∧
  ∀ (lastEdge : Nat) (drives : List Drive),
    (windowVetoed lastEdge drives = true ↔
      ∃ d ∈ drives, (d.start ≤ lastEdge + 15000 ∧ lastEdge + 15000 < d.stop) ∨ (d.start ≤ lastEdge + 25000 ∧ lastEdge + 25000 < d.stop))

/-- Accepted frames that go to no block (R4, R17, R18, R90, R93): REPORTs and frames of unassigned kinds; JOIN, DEMAND and LEAVE of observers; an
own JOIN outside HAILING, an own LEAVE outside LEAVING and a QUERY that this station itself sent, which no run reaches (own is what equals the
frame on the line, log 6; a QUERY of another under the own number bars it: DuplicateBars). They reset the veto run, and end the slot of an own
frame: it is emptied, and a DEMAND slot that was renewed waits instead, its mark cleared; the oldest REPORT goes where it was on the line; and a
slot that is not on the line stays as it is (R60). A frame command is an acceptance also where this station had a bit error in a frame of its
own: the veto run is 0 and the own slot waits (log 30). -/
def Obligations.AcceptedWithoutEffect : Prop :=
  (∀ q : TxQueue, q.complete =
    { join := if q.join = .onLine then .empty else q.join
      leave := if q.leave = .onLine then .empty else q.leave
      demand := match q.demand with
        | .onLine renewed => if renewed = true then .waiting else .empty
        | .waiting => .waiting
        | .empty => .empty
      reports := if q.reportOnLine = true then q.reports.drop 1 else q.reports
      reportOnLine := false }) ∧
  ∀ (c : Instr) (s : State) (f : Frame) (own : Bool), c.frame? = some f → Accepts s f →
    (own = true ∧ IsOwn s f ∨ own = false ∧ FromPeer s f) →
    ((∃ n b, c = .report n b) ∨ (∃ k n bs, c = .unassignedKindFrame k n bs) ∨
      ((∃ n b, c = .join n b) ∨ (∃ n b, c = .demand n b) ∨ (∃ n b, c = .leave n b)) ∧ 17 ≤ f.sender.toNat ∨
      (∃ n b, c = .join n b) ∧ own = true ∧ s.line.link ≠ .hailing ∨
      (∃ n b, c = .leave n b) ∧ own = true ∧ s.line.link ≠ .leaving ∨ (∃ n b, c = .query n b) ∧ own = true) →
    ∃ t, exec c s = .next t ∧ Settled (afterAccept own s) t

/-- An accepted JOIN of a station (R6, R16, R17, R65): a peer's acts on its row; an own one in HAILING enters CENSUS, with the census, heartbeat
and isolation timers started, and creates the own row. A frame command is an acceptance also where this station had a bit error in a frame of its
own (log 30); own is what equals the frame on the line (log 6). -/
def Obligations.JoinAccepted : Prop :=
  ∀ (n : Sender) (b : JoinBody) (s : State), BayInv s → Accepts s { sender := n, payload := .join b } → n.toNat ≤ 16 →
    (FromPeer s { sender := n, payload := .join b } →
      ∃ u t, exec (.join n b) s = .next t ∧ Settled u t ∧
        RowChanged n.toNat (joinRow n.toNat b (findRow n.toNat s.table)) (afterAccept false s) u) ∧
    (IsOwn s { sender := n, payload := .join b } → s.line.link = .hailing →
      ∃ u t, exec (.join n b) s = .next t ∧ Settled u t ∧
        let v := afterAccept true s
        RowChanged n.toNat (joinRow n.toNat b (findRow n.toNat s.table))
          { v with
            line := { v.line with
              link := .census
              timers := { s.line.timers with
                census := .running (ms 5000), heartbeat := .running (ms 500), isolation := .running (ms 1200) } } } u)

/-- An accepted DEMAND of a peer station (R7, R8, R16, R93, R108): its row changes by its mode, and a higher cap stage is adopted, in an order
with the row's change that the spec leaves open (log 9). A carried quiet remaining of 0 leaves the timer run out, its expiry the next command
(log 10). A frame command is an acceptance also where this station had a bit error in a frame of its own (log 30); a peer's is what differs from
the frame on the line (log 6). -/
def Obligations.PeerDemandAccepted : Prop :=
  ∀ (n : Sender) (b : DemandBody) (s : State), BayInv s → Accepts s { sender := n, payload := .demand b } → n.toNat ≤ 16 →
    FromPeer s { sender := n, payload := .demand b } →
    ∃ u t, exec (.demand n b) s = .next t ∧ Settled u t ∧ DemandTaken n.toNat b (afterAccept false s) u

/-- An own DEMAND accepted (R18, R66, R68, R69, R76, R93, R108): in CENSUS and ON the heartbeat, spacing and isolation timers restart, an ACTIVE
one in ON sets the last announced demand, the own row changes and a higher stage is adopted, in an order left open (log 9); in HAILING and
LEAVING only the feed watch takes it (in HAILING: log 28). A carried quiet remaining of 0: log 10. Own is what equals the frame on the line (log
6). -/
def Obligations.OwnDemandAccepted : Prop :=
  ∀ (n : Sender) (b : DemandBody) (s : State), BayInv s → Accepts s { sender := n, payload := .demand b } → n.toNat ≤ 16 →
    IsOwn s { sender := n, payload := .demand b } →
    ∃ u t, exec (.demand n b) s = .next t ∧ Settled u t ∧
      let v := afterAccept true s
      (s.line.link = .census ∨ s.line.link = .on →
        DemandTaken n.toNat b
          { v with
            line := { v.line with
              timers := { s.line.timers with
                heartbeat := .running (ms 500), spacing := .running (ms 100), isolation := .running (ms 1200) }
              lastAnnounced := if s.line.link = .on ∧ b.mode = .active then b.demand.toNat else s.line.lastAnnounced } } u) ∧
      (s.line.link = .hailing ∨ s.line.link = .leaving →
        (b.stage.toNat ≤ s.feed.stage → u = v) ∧
        (s.feed.stage < b.stage.toNat →
          StageChanged b.stage.toNat { v with feed.quiet := .running (ms (100 * b.quiet.toNat)) } u))

/-- An accepted LEAVE of a station (R9, R16, R18, R72): a peer's acts on its row; an own one in LEAVING removes the own row and ends LEAVING. A
frame command is an acceptance also where this station had a bit error in a frame of its own (log 30); own is what equals the frame on the line
(log 6). -/
def Obligations.LeaveAccepted : Prop :=
  ∀ (n : Sender) (b : LeaveBody) (s : State), BayInv s → Accepts s { sender := n, payload := .leave b } → n.toNat ≤ 16 →
    (FromPeer s { sender := n, payload := .leave b } →
      ∃ u t, exec (.leave n b) s = .next t ∧ Settled u t ∧
        RowChanged n.toNat (leaveRow b (findRow n.toNat s.table)) (afterAccept false s) u) ∧
    (IsOwn s { sender := n, payload := .leave b } → s.line.link = .leaving →
      ∃ u t, exec (.leave n b) s = .next t ∧ Settled (leftState u) t ∧ RowChanged n.toNat none (afterAccept true s) u)

/-- An accepted QUERY (R23, R158 to R162, R165): to this station, in CENSUS or ON, with fewer than four REPORT slots filled, it has the REPORT of
this moment queued behind the others; any other leaves no trace. The starved flag of a STATUS record is the mark of the own row (R39). A frame
command is an acceptance also where this station had a bit error in a frame of its own (log 30); one that this station sent itself, equal to its
frame on the line (log 6), stands in AcceptedWithoutEffect. -/
def Obligations.QueryAccepted : Prop :=
  ∀ (n : Sender) (q : QueryBody) (s : State), TableInv s → Accepts s { sender := n, payload := .query q } →
    FromPeer s { sender := n, payload := .query q } →
    ∃ t, exec (.query n q) s = .next t ∧
      let answers := s.ownNumber = some q.target.toNat ∧ (s.line.link = .census ∨ s.line.link = .on) ∧ s.line.queue.reports.length < 4
      let v := afterAccept false s
      let ownMark (m : Bool) : Prop := m = true ↔ ∃ r ∈ s.table, s.ownNumber = some r.station ∧ r.live = true ∧ r.starved = true
      let queued (r : ReportRecord) : State :=
        { v with line.queue.reports := s.line.queue.reports ++ [{ requester := n, content := r }] }
      (¬answers → Settled v t) ∧
      (answers → q.item = .status → ∀ m, ownMark m →
        Settled (queued (.status q.index
          { link := s.line.link, phase := s.bay.phase.name, cause := s.bay.phase.cause
            limit := BitVec.ofNat 8 s.commit.limit, target := BitVec.ofNat 8 s.commit.target
            lastAnnounced := BitVec.ofNat 8 s.line.lastAnnounced, localDemand := BitVec.ofNat 8 s.bay.localDemand
            stage := BitVec.ofNat 8 s.feed.stage, rowCount := BitVec.ofNat 8 s.table.length
            isolated := s.line.isolated, stuck := s.feed.stuck, starved := m, throttled := s.throttled
            foldback := s.bay.foldback })) t) ∧
      (answers → q.item = .row → findRow q.index.toNat s.table = none →
        Settled (queued (.row q.index
          { state := .absent, sb := 0, sc := 0, demand := 0, grant := 0, frozen := 0, tag := 0, age := 0 })) t) ∧
      (answers → q.item = .row → ∀ r, findRow q.index.toNat s.table = some r →
        Settled (queued (.row q.index
          { state := r.name, sb := r.sb, sc := r.sc, demand := BitVec.ofNat 8 r.demand, grant := BitVec.ofNat 8 r.grant
            frozen := BitVec.ofNat 8 r.frozen, tag := r.tag, age := BitVec.ofNat 8 (min (r.age / 4000) 255) })) t) ∧
      (answers → q.item = .reading → ∀ c, channelCode c = q.index → s.store.entry c = none →
        Settled (queued (.reading
          { channel := c, count := 0, ending := .complete, min := 0, max := 0, average := 0, last := 0 })) t) ∧
      (answers → q.item = .reading → ∀ c r, channelCode c = q.index → s.store.entry c = some r →
        Settled (queued (.reading
          { channel := c, count := BitVec.ofNat 8 r.count, ending := r.ending, min := BitVec.ofInt 16 r.min
            max := BitVec.ofInt 16 r.max, average := BitVec.ofInt 16 r.average, last := BitVec.ofInt 16 r.last })) t)

/-! ### EN and the timers of station life -/

/-- A rising edge of EN (R64, R70, R83, R103): from DOWN, the strap pass over, HAILING; in every other state the level alone changes. R70 says
that it cannot arrive in HAILING, CENSUS or ON; what it does there is the model's choice (log 14). -/
def Obligations.EnableRises : Prop :=
  ∀ s : State, BayInv s →
    ∃ t, exec .enRise s = .next t ∧
      (s.line.link = .down ∧ s.config.isSome = true → Settled (hailingFromDown { s with pins.en := true }) t) ∧
      (¬(s.line.link = .down ∧ s.config.isSome = true) → Settled { s with pins.en := true } t)

/-- A falling edge of EN (R51, R71): from CENSUS and ON LEAVING, with T and L 0 and a LEAVE queued; from HAILING DOWN; elsewhere the level alone
changes. -/
def Obligations.EnableFalls : Prop :=
  ∀ s : State, BayInv s →
    ∃ t, exec .enFall s = .next t ∧
      (s.line.link = .census ∨ s.line.link = .on →
        Settled (withNoLimit { s with
          pins.en := false
          line := { s.line with
            link := .leaving
            queue := { s.line.queue with
              leave := if s.line.queue.leave = .empty then .waiting else s.line.queue.leave
              demand := .empty, reports := [], reportOnLine := false }
            timers := { s.line.timers with
              census := .idle, heartbeat := .idle, spacing := .idle, isolation := .idle, leave := .running (ms 200) } } }) t) ∧
      (s.line.link = .hailing → Settled (downState { s with pins.en := false }) t) ∧
      (s.line.link ≠ .census ∧ s.line.link ≠ .on ∧ s.line.link ≠ .hailing → Settled { s with pins.en := false } t)

/-- The timers that request a DEMAND (R60, R66 to R68). The census timer enters ON and requests one, marking a frame on the line as renewed; the
heartbeat requests one in CENSUS and ON; the spacing timer has a due change of demand announced in ON. A timer that runs out in a link state
that gives its expiry no effect only becomes idle, a case that no run reaches (log 26). -/
def Obligations.AnnouncingTimersExpire : Prop :=
  ∀ s : State,
    let due : Prop := 4 ≤ ((s.bay.localDemand : Int) - s.line.lastAnnounced).natAbs ∨
      (s.bay.localDemand = 0 ∧ 0 < s.line.lastAnnounced) ∨ (0 < s.bay.localDemand ∧ s.line.lastAnnounced = 0)
    let filled := if s.line.queue.demand = .empty then DemandSlot.waiting else s.line.queue.demand
    (s.line.timers.census = .running 0 → ∃ t, exec .censusTimerExpiry s = .next t ∧
      (s.line.link = .census → Settled { s with
        line := { s.line with
          link := .on, timers := { s.line.timers with census := .idle }
          queue := { s.line.queue with
            demand := match s.line.queue.demand with
              | .onLine _ => .onLine true
              | .empty | .waiting => .waiting } } } t) ∧
      (s.line.link ≠ .census → Settled { s with line.timers.census := .idle } t)) ∧
    (s.line.timers.heartbeat = .running 0 → ∃ t, exec .heartbeatTimerExpiry s = .next t ∧
      (s.line.link = .census ∨ s.line.link = .on →
        Settled { s with line.timers.heartbeat := .idle, line.queue.demand := filled } t) ∧
      (s.line.link ≠ .census ∧ s.line.link ≠ .on → Settled { s with line.timers.heartbeat := .idle } t)) ∧
    (s.line.timers.spacing = .running 0 → ∃ t, exec .spacingTimerExpiry s = .next t ∧
      (s.line.link = .on ∧ due → Settled { s with line.timers.spacing := .idle, line.queue.demand := filled } t) ∧
      (¬(s.line.link = .on ∧ due) → Settled { s with line.timers.spacing := .idle } t))

/-- The timers that change the link state (R51, R69, R72, R73): isolation leads from CENSUS and ON to HAILING with the isolated flag set, the
leave timer ends LEAVING, and the mute timer ends MUTE in HAILING or DOWN by the level of EN. One of them that runs out in another link state
only becomes idle, a case that no run reaches (log 26). -/
def Obligations.LinkTimersExpire : Prop :=
  ∀ s : State, BayInv s →
    (s.line.timers.isolation = .running 0 → s.line.link = .census ∨ s.line.link = .on →
      ∃ t, exec .isolationTimerExpiry s = .next t ∧ Settled (hailingState { s with line.isolated := true }) t) ∧
    (s.line.timers.leave = .running 0 → s.line.link = .leaving →
      ∃ t, exec .leaveTimerExpiry s = .next t ∧ Settled (leftState s) t) ∧
    (s.line.timers.mute = .running 0 → s.line.link = .mute →
      ∃ t, exec .muteTimerExpiry s = .next t ∧
        let v : State := { s with line.timers.mute := .idle }
        (s.pins.en = true → Settled (hailingState { v with line.admitted := false }) t) ∧ (s.pins.en = false → Settled (downState v) t)) ∧
    (s.line.timers.isolation = .running 0 → s.line.link ≠ .census ∧ s.line.link ≠ .on →
      ∃ t, exec .isolationTimerExpiry s = .next t ∧ Settled { s with line.timers.isolation := .idle } t) ∧
    (s.line.timers.leave = .running 0 → s.line.link ≠ .leaving →
      ∃ t, exec .leaveTimerExpiry s = .next t ∧ Settled { s with line.timers.leave := .idle } t) ∧
    (s.line.timers.mute = .running 0 → s.line.link ≠ .mute →
      ∃ t, exec .muteTimerExpiry s = .next t ∧ Settled { s with line.timers.mute := .idle } t)

/-- What has not run out has no expiry: a timer that is idle or has time left, a credit that does not run or does not reach its setting within the
conversion under way, a row below the age at which it falls silent or is released. So a timer restarted at the very moment of its expiry does not
expire (R15, R53, R76, R110, R148; that the command then has no effect, and what is counted of the conversion under way, is the model's convention,
log 3). -/
def Obligations.NothingToExpire : Prop :=
  ∀ (c : Instr) (s : State),
    ((c = .raiseHoldExpiry ∧ s.commit.hold ≠ .running 0) ∨ (c = .lowTimerExpiry ∧ s.feed.low ≠ .running 0) ∨
      (c = .quietTimerExpiry ∧ s.feed.quiet ≠ .running 0) ∨ (c = .rearmTimerExpiry ∧ s.feed.rearm ≠ .running 0 ∧ s.feed.rearm ≠ .running 1) ∨
      (c = .almDriveEnd ∧ s.feed.drive ≠ .running 0) ∨ (c = .statPatternStep ∧ s.stat.left ≠ .running 0) ∨
      (c = .censusTimerExpiry ∧ s.line.timers.census ≠ .running 0) ∨ (c = .heartbeatTimerExpiry ∧ s.line.timers.heartbeat ≠ .running 0) ∨
      (c = .spacingTimerExpiry ∧ s.line.timers.spacing ≠ .running 0) ∨ (c = .isolationTimerExpiry ∧ s.line.timers.isolation ≠ .running 0) ∨
      (c = .leaveTimerExpiry ∧ s.line.timers.leave ≠ .running 0) ∨ (c = .muteTimerExpiry ∧ s.line.timers.mute ≠ .running 0) ∨
      (c = .prechargeCreditExpiry ∧ (s.bay.precharge.run ≠ .running ∨
        s.bay.precharge.seconds + creditRate s.cfg s.commit.limit s.bay / 40000 < 1800)) ∨
      (c = .chargeCreditExpiry ∧ (s.bay.charge.run ≠ .running ∨
        s.bay.charge.seconds + creditRate s.cfg s.commit.limit s.bay / 40000 < 14400)) ∨
      (∃ n, c = .rowSilence n ∧ ∀ r, findRow n s.table = some r → r.live = true → r.age < ms 1500) ∨
      (∃ n, c = .silentRowRelease n ∧ ∀ r, findRow n s.table = some r → r.name = .silent → r.age < ms 5000) ∨
      (∃ n, c = .disputedRowRelease n ∧ ∀ r, findRow n s.table = some r → ∀ g d, r.status = .disputed g d → d < ms 5000)) →
    ∃ t, exec c s = .next t ∧ Settled s t

/-! ### ALM, the cap stage and the raise hold -/

/-- The edges of ALM (R48, R49, R103, R104, R106): a falling one clamps L to one floor and cancels the raise hold in HAILING, CENSUS, ON and
LEAVING, and while it is tracked steps the cap stage and starts quiet and low timers; a rising one cancels the low timer, clears the stuck flag
and starts the quiet timer, and starts a raise hold where T is above L. -/
def Obligations.AlarmEdges : Prop :=
  ∀ s : State, BayInv s →
    let counts := s.line.link = .hailing ∨ s.line.link = .census ∨ s.line.link = .on ∨ s.line.link = .leaving
    (∃ w u t, exec .almFallingEdge s = .next t ∧ Settled u t ∧
      (counts → w = withCommit { target := s.commit.target, limit := min s.commit.limit 4, hold := .idle } { s with pins.almHigh := false }) ∧
      (¬counts → w = { s with pins.almHigh := false }) ∧
      (s.feed.tracking = true → StageChanged (min (s.feed.stage + 1) 2)
        { w with feed.quiet := .running (ms 10000), feed.low := .running (ms 20) } u) ∧
      (s.feed.tracking = false → u = w)) ∧
    (∃ u t, exec .almRisingEdge s = .next t ∧ Settled u t ∧
      u = { s with pins.almHigh := true, feed := u.feed, commit.hold := u.commit.hold } ∧
      (s.feed.tracking = true → u.feed = { s.feed with low := .idle, stuck := false, quiet := .running (ms 10000) }) ∧
      (s.feed.tracking = false → u.feed = s.feed) ∧
      (counts ∧ s.commit.hold = .idle ∧ s.commit.limit < s.commit.target → u.commit.hold = .running (ms 250)) ∧
      (¬(counts ∧ s.commit.hold = .idle ∧ s.commit.limit < s.commit.target) → u.commit.hold = s.commit.hold))

/-- The timers of the feed watch (R102, R105, R107): the end of the pulse, with which the station no longer pulls ALM low, as it does while the pulse
lasts and at no other time; the end of the re-arm time, before or after the record of the conversion in which it falls (log 3); ALM stuck, which sets
the flag and stage 2; and the quiet timer, which lowers the stage by one while ALM is high, and runs again while the stage is above 0. -/
def Obligations.FeedTimersExpire : Prop :=
  ∀ s : State, BayInv s →
    (s.drivesAlm = true ↔ ∃ left, s.feed.drive = .running left) ∧
    (s.feed.drive = .running 0 →
      ∃ t, exec .almDriveEnd s = .next t ∧ Settled { s with feed.drive := .idle } t ∧ t.drivesAlm = false) ∧
    (s.feed.rearm = .running 0 ∨ s.feed.rearm = .running 1 → ∃ t, exec .rearmTimerExpiry s = .next t ∧ Settled { s with feed.rearm := .idle } t) ∧
    (s.feed.low = .running 0 →
      ∃ u t, exec .lowTimerExpiry s = .next t ∧ Settled u t ∧ StageChanged 2 { s with feed.low := .idle, feed.stuck := true } u) ∧
    (s.feed.quiet = .running 0 →
      ∃ u t, exec .quietTimerExpiry s = .next t ∧ Settled u t ∧
        (s.pins.almHigh = true → 2 ≤ s.feed.stage →
          Recomputed s.table { s with feed.quiet := .running (ms 10000), feed.stage := s.feed.stage - 1 } u) ∧
        (s.pins.almHigh = true → s.feed.stage = 1 → Recomputed s.table { s with feed.quiet := .idle, feed.stage := 0 } u) ∧
        (s.pins.almHigh = false ∨ s.feed.stage = 0 → u = { s with feed.quiet := .idle }))

/-- The expiry of the raise hold (R47): it becomes idle, and L becomes T when ALM is high and T is above L. -/
def Obligations.RaiseHoldExpires : Prop :=
  ∀ s : State, BayInv s → s.commit.hold = .running 0 →
    ∃ t, exec .raiseHoldExpiry s = .next t ∧
      (s.pins.almHigh = true → s.commit.limit < s.commit.target →
        Settled (withCommit { target := s.commit.target, limit := s.commit.target, hold := .idle } s) t) ∧
      (s.pins.almHigh = false ∨ s.commit.target ≤ s.commit.limit → Settled { s with commit.hold := .idle } t)

/-! ### Rows, credits and STAT -/

/-- The aging of rows (R12 to R14, R16): a live row of age 1,500 ms falls SILENT with its grant frozen, a SILENT row of age 5,000 ms and a DISPUTED
row of dispute age 5,000 ms are removed, and the change is handed to the share rule; a row in another state, or below that age, the event leaves
as it is (R15; that such an event has no effect: log 3). -/
def Obligations.RowsExpire : Prop :=
  ∀ (n : Nat) (s : State) (r : Row), BayInv s → findRow n s.table = some r →
    (∃ u t, exec (.rowSilence n) s = .next t ∧ Settled u t ∧
      (r.name = .joining ∨ r.name = .active → ms 1500 ≤ r.age → RowChanged n (some { r with status := .silent r.grant }) s u) ∧
      (r.name = .silent ∨ r.name = .disputed ∨ r.age < ms 1500 → u = s)) ∧
    (∃ u t, exec (.silentRowRelease n) s = .next t ∧ Settled u t ∧
      (r.name = .silent → ms 5000 ≤ r.age → Recomputed s.table { s with table := putRow n none s.table } u) ∧
      (r.name ≠ .silent ∨ r.age < ms 5000 → u = s)) ∧
    (∃ u t, exec (.disputedRowRelease n) s = .next t ∧ Settled u t ∧
      (∀ g d, r.status = .disputed g d → ms 5000 ≤ d → Recomputed s.table { s with table := putRow n none s.table } u) ∧
      (∀ g d, r.status = .disputed g d → d < ms 5000 → u = s) ∧ (r.name ≠ .disputed → u = s))

/-- The timeouts (R136, R143, R144, R148): a running credit that reaches its setting stops there, and the bay enters FAULT with its cause, also where
it reaches it within the conversion under way, whose record may then be taken after the timeout (log 3); a charge timeout is recorded as full when
the latest BAYV average is at or above the recharge threshold. Credits are exact rationals of seconds (log 16). -/
def Obligations.CreditsExpire : Prop :=
  ∀ s : State, BayInv s →
    let gain := creditRate s.cfg s.commit.limit s.bay / 40000
    (s.bay.precharge.run = .running → 1800 ≤ s.bay.precharge.seconds + gain → ∃ t, exec .prechargeCreditExpiry s = .next t ∧
      Settled (withBay { s.bay with
        phase := .fault .prechargeTimeout, localDemand := 0, termCount := 0
        precharge := { seconds := 1800, run := .stopped }, charge := { s.bay.charge with run := .stopped } } s) t) ∧
    (s.bay.charge.run = .running → 14400 ≤ s.bay.charge.seconds + gain → ∃ (full : Bool) (t : State), exec .chargeCreditExpiry s = .next t ∧
      (full = true ↔ ∃ r, s.store.bayv = some r ∧ s.cfg.regulation - 100 ≤ r.average) ∧
      Settled (withBay { s.bay with
        phase := .fault (.chargeTimeout full), localDemand := 0, termCount := 0
        precharge := { s.bay.precharge with run := .stopped }, charge := { seconds := 14400, run := .stopped } } s) t)

/-- At the end of an interval STAT goes on to the next of its pattern and from the last to the first (R156); off and steady have none, and the
command changes nothing in them (log 18). STAT is driven throughout steady, never in off, and in the first, third and fifth interval of a blink or
pulse pattern, which are those that R156 gives as on. -/
def Obligations.StatStepAdvances : Prop :=
  (∀ s : State, s.stat.driven = true ↔ s.stat.pattern = .steady ∨ (s.stat.pattern ≠ .off ∧ s.stat.position % 2 = 0)) ∧
  ∀ s : State, s.stat.left = .running 0 → ∃ u t, exec .statPatternStep s = .next t ∧ Settled u t ∧ u = { s with stat := u.stat } ∧
    let next (ds : List Nat) : StatOutput :=
      { pattern := s.stat.pattern, position := (s.stat.position + 1) % ds.length
        left := .running (ms (ds.getD ((s.stat.position + 1) % ds.length) 0)) }
    match s.stat.pattern with
    | .off | .steady => u.stat = s.stat
    | .blink1 => u.stat = next [500, 500]
    | .blink4 => u.stat = next [125, 125]
    | .twoPulses => u.stat = next [100, 200, 100, 1600]
    | .threePulses => u.stat = next [100, 200, 100, 200, 100, 1300]
end

