-- ==== Sys2Proof/Laws/State.lean ====
section
/-! SUPPORT. What each shared operation leaves unchanged, field by field, and what the plain ones set: one small lemma each, tagged simp, so
that no later proof unfolds a record update. (A projection of a record update that is written out is reduced by simp itself.) -/

namespace Sys2Proof.Machine

/-! ### A DEMAND is requested -/

@[simp] theorem State.requestDemand_power (fromCensus : Bool) (s : State) : (s.requestDemand fromCensus).power = s.power := rfl
@[simp] theorem State.requestDemand_fuses (fromCensus : Bool) (s : State) : (s.requestDemand fromCensus).fuses = s.fuses := rfl
@[simp] theorem State.requestDemand_tag (fromCensus : Bool) (s : State) : (s.requestDemand fromCensus).tag = s.tag := rfl
@[simp] theorem State.requestDemand_pins (fromCensus : Bool) (s : State) : (s.requestDemand fromCensus).pins = s.pins := rfl
@[simp] theorem State.requestDemand_wire (fromCensus : Bool) (s : State) : (s.requestDemand fromCensus).wire = s.wire := rfl
@[simp] theorem State.requestDemand_straps (fromCensus : Bool) (s : State) : (s.requestDemand fromCensus).straps = s.straps := rfl
@[simp] theorem State.requestDemand_config (fromCensus : Bool) (s : State) : (s.requestDemand fromCensus).config = s.config := rfl
@[simp] theorem State.requestDemand_scan (fromCensus : Bool) (s : State) : (s.requestDemand fromCensus).scan = s.scan := rfl
@[simp] theorem State.requestDemand_store (fromCensus : Bool) (s : State) : (s.requestDemand fromCensus).store = s.store := rfl
@[simp] theorem State.requestDemand_feed (fromCensus : Bool) (s : State) : (s.requestDemand fromCensus).feed = s.feed := rfl
@[simp] theorem State.requestDemand_table (fromCensus : Bool) (s : State) : (s.requestDemand fromCensus).table = s.table := rfl
@[simp] theorem State.requestDemand_commit (fromCensus : Bool) (s : State) : (s.requestDemand fromCensus).commit = s.commit := rfl
@[simp] theorem State.requestDemand_bay (fromCensus : Bool) (s : State) : (s.requestDemand fromCensus).bay = s.bay := rfl
@[simp] theorem State.requestDemand_stat (fromCensus : Bool) (s : State) : (s.requestDemand fromCensus).stat = s.stat := rfl
@[simp] theorem State.requestDemand_choices (fromCensus : Bool) (s : State) : (s.requestDemand fromCensus).choices = s.choices := rfl
@[simp] theorem State.requestDemand_pending (fromCensus : Bool) (s : State) : (s.requestDemand fromCensus).pending = s.pending := rfl
@[simp] theorem State.requestDemand_line_link (fromCensus : Bool) (s : State) : (s.requestDemand fromCensus).line.link = s.line.link :=
  rfl
@[simp] theorem State.requestDemand_line_admitted (fromCensus : Bool) (s : State) : (s.requestDemand fromCensus).line.admitted = s.line.admitted :=
  rfl
@[simp] theorem State.requestDemand_line_queue_join (fromCensus : Bool) (s : State) : (s.requestDemand fromCensus).line.queue.join = s.line.queue.join :=
  rfl
@[simp] theorem State.requestDemand_line_queue_leave (fromCensus : Bool) (s : State) : (s.requestDemand fromCensus).line.queue.leave = s.line.queue.leave :=
  rfl
@[simp] theorem State.requestDemand_line_queue_reports (fromCensus : Bool) (s : State) : (s.requestDemand fromCensus).line.queue.reports = s.line.queue.reports :=
  rfl
@[simp] theorem State.requestDemand_line_queue_reportOnLine (fromCensus : Bool) (s : State) : (s.requestDemand fromCensus).line.queue.reportOnLine = s.line.queue.reportOnLine :=
  rfl
@[simp] theorem State.requestDemand_line_vetoRun (fromCensus : Bool) (s : State) : (s.requestDemand fromCensus).line.vetoRun = s.line.vetoRun :=
  rfl
@[simp] theorem State.requestDemand_line_timers (fromCensus : Bool) (s : State) : (s.requestDemand fromCensus).line.timers = s.line.timers :=
  rfl
@[simp] theorem State.requestDemand_line_lastAnnounced (fromCensus : Bool) (s : State) : (s.requestDemand fromCensus).line.lastAnnounced = s.line.lastAnnounced :=
  rfl
@[simp] theorem State.requestDemand_line_isolated (fromCensus : Bool) (s : State) : (s.requestDemand fromCensus).line.isolated = s.line.isolated :=
  rfl

/-! ### The demand change is judged -/

@[simp] theorem State.judgeDemand_power (s : State) : s.judgeDemand.power = s.power := by
  unfold State.judgeDemand; (repeat' split) <;> simp
@[simp] theorem State.judgeDemand_fuses (s : State) : s.judgeDemand.fuses = s.fuses := by
  unfold State.judgeDemand; (repeat' split) <;> simp
@[simp] theorem State.judgeDemand_tag (s : State) : s.judgeDemand.tag = s.tag := by unfold State.judgeDemand; (repeat' split) <;> simp
@[simp] theorem State.judgeDemand_pins (s : State) : s.judgeDemand.pins = s.pins := by
  unfold State.judgeDemand; (repeat' split) <;> simp
@[simp] theorem State.judgeDemand_wire (s : State) : s.judgeDemand.wire = s.wire := by
  unfold State.judgeDemand; (repeat' split) <;> simp
@[simp] theorem State.judgeDemand_straps (s : State) : s.judgeDemand.straps = s.straps := by
  unfold State.judgeDemand; (repeat' split) <;> simp
@[simp] theorem State.judgeDemand_config (s : State) : s.judgeDemand.config = s.config := by
  unfold State.judgeDemand; (repeat' split) <;> simp
@[simp] theorem State.judgeDemand_scan (s : State) : s.judgeDemand.scan = s.scan := by
  unfold State.judgeDemand; (repeat' split) <;> simp
@[simp] theorem State.judgeDemand_store (s : State) : s.judgeDemand.store = s.store := by
  unfold State.judgeDemand; (repeat' split) <;> simp
@[simp] theorem State.judgeDemand_feed (s : State) : s.judgeDemand.feed = s.feed := by
  unfold State.judgeDemand; (repeat' split) <;> simp
@[simp] theorem State.judgeDemand_table (s : State) : s.judgeDemand.table = s.table := by
  unfold State.judgeDemand; (repeat' split) <;> simp
@[simp] theorem State.judgeDemand_commit (s : State) : s.judgeDemand.commit = s.commit := by
  unfold State.judgeDemand; (repeat' split) <;> simp
@[simp] theorem State.judgeDemand_bay (s : State) : s.judgeDemand.bay = s.bay := by unfold State.judgeDemand; (repeat' split) <;> simp
@[simp] theorem State.judgeDemand_stat (s : State) : s.judgeDemand.stat = s.stat := by
  unfold State.judgeDemand; (repeat' split) <;> simp
@[simp] theorem State.judgeDemand_choices (s : State) : s.judgeDemand.choices = s.choices := by
  unfold State.judgeDemand; (repeat' split) <;> simp
@[simp] theorem State.judgeDemand_pending (s : State) : s.judgeDemand.pending = s.pending := by
  unfold State.judgeDemand; (repeat' split) <;> simp
@[simp] theorem State.judgeDemand_line_link (s : State) : s.judgeDemand.line.link = s.line.link := by
  unfold State.judgeDemand; (repeat' split) <;> simp
@[simp] theorem State.judgeDemand_line_admitted (s : State) : s.judgeDemand.line.admitted = s.line.admitted := by
  unfold State.judgeDemand; (repeat' split) <;> simp
@[simp] theorem State.judgeDemand_line_queue_join (s : State) : s.judgeDemand.line.queue.join = s.line.queue.join := by
  unfold State.judgeDemand; (repeat' split) <;> simp
@[simp] theorem State.judgeDemand_line_queue_leave (s : State) : s.judgeDemand.line.queue.leave = s.line.queue.leave := by
  unfold State.judgeDemand; (repeat' split) <;> simp
@[simp] theorem State.judgeDemand_line_queue_reports (s : State) : s.judgeDemand.line.queue.reports = s.line.queue.reports := by
  unfold State.judgeDemand; (repeat' split) <;> simp
@[simp] theorem State.judgeDemand_line_queue_reportOnLine (s : State) : s.judgeDemand.line.queue.reportOnLine = s.line.queue.reportOnLine := by
  unfold State.judgeDemand; (repeat' split) <;> simp
@[simp] theorem State.judgeDemand_line_vetoRun (s : State) : s.judgeDemand.line.vetoRun = s.line.vetoRun := by
  unfold State.judgeDemand; (repeat' split) <;> simp
@[simp] theorem State.judgeDemand_line_timers (s : State) : s.judgeDemand.line.timers = s.line.timers := by
  unfold State.judgeDemand; (repeat' split) <;> simp
@[simp] theorem State.judgeDemand_line_lastAnnounced (s : State) : s.judgeDemand.line.lastAnnounced = s.line.lastAnnounced := by
  unfold State.judgeDemand; (repeat' split) <;> simp
@[simp] theorem State.judgeDemand_line_isolated (s : State) : s.judgeDemand.line.isolated = s.line.isolated := by
  unfold State.judgeDemand; (repeat' split) <;> simp

/-! ### The bay takes a new inner state -/

@[simp] theorem State.putBay_power (b : BayController) (s : State) : (s.putBay b).power = s.power := by
  unfold State.putBay; dsimp only; (repeat' split) <;> simp
@[simp] theorem State.putBay_fuses (b : BayController) (s : State) : (s.putBay b).fuses = s.fuses := by
  unfold State.putBay; dsimp only; (repeat' split) <;> simp
@[simp] theorem State.putBay_tag (b : BayController) (s : State) : (s.putBay b).tag = s.tag := by
  unfold State.putBay; dsimp only; (repeat' split) <;> simp
@[simp] theorem State.putBay_pins (b : BayController) (s : State) : (s.putBay b).pins = s.pins := by
  unfold State.putBay; dsimp only; (repeat' split) <;> simp
@[simp] theorem State.putBay_wire (b : BayController) (s : State) : (s.putBay b).wire = s.wire := by
  unfold State.putBay; dsimp only; (repeat' split) <;> simp
@[simp] theorem State.putBay_straps (b : BayController) (s : State) : (s.putBay b).straps = s.straps := by
  unfold State.putBay; dsimp only; (repeat' split) <;> simp
@[simp] theorem State.putBay_config (b : BayController) (s : State) : (s.putBay b).config = s.config := by
  unfold State.putBay; dsimp only; (repeat' split) <;> simp
@[simp] theorem State.putBay_scan (b : BayController) (s : State) : (s.putBay b).scan = s.scan := by
  unfold State.putBay; dsimp only; (repeat' split) <;> simp
@[simp] theorem State.putBay_store (b : BayController) (s : State) : (s.putBay b).store = s.store := by
  unfold State.putBay; dsimp only; (repeat' split) <;> simp
@[simp] theorem State.putBay_feed (b : BayController) (s : State) : (s.putBay b).feed = s.feed := by
  unfold State.putBay; dsimp only; (repeat' split) <;> simp
@[simp] theorem State.putBay_table (b : BayController) (s : State) : (s.putBay b).table = s.table := by
  unfold State.putBay; dsimp only; (repeat' split) <;> simp
@[simp] theorem State.putBay_commit (b : BayController) (s : State) : (s.putBay b).commit = s.commit := by
  unfold State.putBay; dsimp only; (repeat' split) <;> simp
@[simp] theorem State.putBay_stat (b : BayController) (s : State) : (s.putBay b).stat = s.stat := by
  unfold State.putBay; dsimp only; (repeat' split) <;> simp
@[simp] theorem State.putBay_choices (b : BayController) (s : State) : (s.putBay b).choices = s.choices := by
  unfold State.putBay; dsimp only; (repeat' split) <;> simp
@[simp] theorem State.putBay_pending (b : BayController) (s : State) : (s.putBay b).pending = s.pending := by
  unfold State.putBay; dsimp only; (repeat' split) <;> simp
@[simp] theorem State.putBay_line_link (b : BayController) (s : State) : (s.putBay b).line.link = s.line.link := by
  unfold State.putBay; dsimp only; (repeat' split) <;> simp
@[simp] theorem State.putBay_line_admitted (b : BayController) (s : State) : (s.putBay b).line.admitted = s.line.admitted := by
  unfold State.putBay; dsimp only; (repeat' split) <;> simp
@[simp] theorem State.putBay_line_queue_join (b : BayController) (s : State) : (s.putBay b).line.queue.join = s.line.queue.join := by
  unfold State.putBay; dsimp only; (repeat' split) <;> simp
@[simp] theorem State.putBay_line_queue_leave (b : BayController) (s : State) : (s.putBay b).line.queue.leave = s.line.queue.leave := by
  unfold State.putBay; dsimp only; (repeat' split) <;> simp
@[simp] theorem State.putBay_line_queue_reports (b : BayController) (s : State) : (s.putBay b).line.queue.reports = s.line.queue.reports := by
  unfold State.putBay; dsimp only; (repeat' split) <;> simp
@[simp] theorem State.putBay_line_queue_reportOnLine (b : BayController) (s : State) : (s.putBay b).line.queue.reportOnLine = s.line.queue.reportOnLine := by
  unfold State.putBay; dsimp only; (repeat' split) <;> simp
@[simp] theorem State.putBay_line_vetoRun (b : BayController) (s : State) : (s.putBay b).line.vetoRun = s.line.vetoRun := by
  unfold State.putBay; dsimp only; (repeat' split) <;> simp
@[simp] theorem State.putBay_line_timers (b : BayController) (s : State) : (s.putBay b).line.timers = s.line.timers := by
  unfold State.putBay; dsimp only; (repeat' split) <;> simp
@[simp] theorem State.putBay_line_lastAnnounced (b : BayController) (s : State) : (s.putBay b).line.lastAnnounced = s.line.lastAnnounced := by
  unfold State.putBay; dsimp only; (repeat' split) <;> simp
@[simp] theorem State.putBay_line_isolated (b : BayController) (s : State) : (s.putBay b).line.isolated = s.line.isolated := by
  unfold State.putBay; dsimp only; (repeat' split) <;> simp

/-! ### The commit unit takes new values -/

@[simp] theorem State.putCommit_power (c : CommitUnit) (s : State) : (s.putCommit c).power = s.power := by
  unfold State.putCommit; (repeat' split) <;> simp
@[simp] theorem State.putCommit_fuses (c : CommitUnit) (s : State) : (s.putCommit c).fuses = s.fuses := by
  unfold State.putCommit; (repeat' split) <;> simp
@[simp] theorem State.putCommit_tag (c : CommitUnit) (s : State) : (s.putCommit c).tag = s.tag := by
  unfold State.putCommit; (repeat' split) <;> simp
@[simp] theorem State.putCommit_pins (c : CommitUnit) (s : State) : (s.putCommit c).pins = s.pins := by
  unfold State.putCommit; (repeat' split) <;> simp
@[simp] theorem State.putCommit_wire (c : CommitUnit) (s : State) : (s.putCommit c).wire = s.wire := by
  unfold State.putCommit; (repeat' split) <;> simp
@[simp] theorem State.putCommit_straps (c : CommitUnit) (s : State) : (s.putCommit c).straps = s.straps := by
  unfold State.putCommit; (repeat' split) <;> simp
@[simp] theorem State.putCommit_config (c : CommitUnit) (s : State) : (s.putCommit c).config = s.config := by
  unfold State.putCommit; (repeat' split) <;> simp
@[simp] theorem State.putCommit_scan (c : CommitUnit) (s : State) : (s.putCommit c).scan = s.scan := by
  unfold State.putCommit; (repeat' split) <;> simp
@[simp] theorem State.putCommit_store (c : CommitUnit) (s : State) : (s.putCommit c).store = s.store := by
  unfold State.putCommit; (repeat' split) <;> simp
@[simp] theorem State.putCommit_feed (c : CommitUnit) (s : State) : (s.putCommit c).feed = s.feed := by
  unfold State.putCommit; (repeat' split) <;> simp
@[simp] theorem State.putCommit_table (c : CommitUnit) (s : State) : (s.putCommit c).table = s.table := by
  unfold State.putCommit; (repeat' split) <;> simp
@[simp] theorem State.putCommit_stat (c : CommitUnit) (s : State) : (s.putCommit c).stat = s.stat := by
  unfold State.putCommit; (repeat' split) <;> simp
@[simp] theorem State.putCommit_choices (c : CommitUnit) (s : State) : (s.putCommit c).choices = s.choices := by
  unfold State.putCommit; (repeat' split) <;> simp
@[simp] theorem State.putCommit_pending (c : CommitUnit) (s : State) : (s.putCommit c).pending = s.pending := by
  unfold State.putCommit; (repeat' split) <;> simp
@[simp] theorem State.putCommit_line_link (c : CommitUnit) (s : State) : (s.putCommit c).line.link = s.line.link := by
  unfold State.putCommit; (repeat' split) <;> simp
@[simp] theorem State.putCommit_line_admitted (c : CommitUnit) (s : State) : (s.putCommit c).line.admitted = s.line.admitted := by
  unfold State.putCommit; (repeat' split) <;> simp
@[simp] theorem State.putCommit_line_queue_join (c : CommitUnit) (s : State) : (s.putCommit c).line.queue.join = s.line.queue.join := by
  unfold State.putCommit; (repeat' split) <;> simp
@[simp] theorem State.putCommit_line_queue_leave (c : CommitUnit) (s : State) : (s.putCommit c).line.queue.leave = s.line.queue.leave := by
  unfold State.putCommit; (repeat' split) <;> simp
@[simp] theorem State.putCommit_line_queue_reports (c : CommitUnit) (s : State) : (s.putCommit c).line.queue.reports = s.line.queue.reports := by
  unfold State.putCommit; (repeat' split) <;> simp
@[simp] theorem State.putCommit_line_queue_reportOnLine (c : CommitUnit) (s : State) : (s.putCommit c).line.queue.reportOnLine = s.line.queue.reportOnLine := by
  unfold State.putCommit; (repeat' split) <;> simp
@[simp] theorem State.putCommit_line_vetoRun (c : CommitUnit) (s : State) : (s.putCommit c).line.vetoRun = s.line.vetoRun := by
  unfold State.putCommit; (repeat' split) <;> simp
@[simp] theorem State.putCommit_line_timers (c : CommitUnit) (s : State) : (s.putCommit c).line.timers = s.line.timers := by
  unfold State.putCommit; (repeat' split) <;> simp
@[simp] theorem State.putCommit_line_lastAnnounced (c : CommitUnit) (s : State) : (s.putCommit c).line.lastAnnounced = s.line.lastAnnounced := by
  unfold State.putCommit; (repeat' split) <;> simp
@[simp] theorem State.putCommit_line_isolated (c : CommitUnit) (s : State) : (s.putCommit c).line.isolated = s.line.isolated := by
  unfold State.putCommit; (repeat' split) <;> simp

/-! ### A recompute hands over T -/

@[simp] theorem State.handOver_power (lowering : Bool) (s : State) : (s.handOver lowering).power = s.power := by simp [State.handOver]
@[simp] theorem State.handOver_fuses (lowering : Bool) (s : State) : (s.handOver lowering).fuses = s.fuses := by simp [State.handOver]
@[simp] theorem State.handOver_tag (lowering : Bool) (s : State) : (s.handOver lowering).tag = s.tag := by simp [State.handOver]
@[simp] theorem State.handOver_pins (lowering : Bool) (s : State) : (s.handOver lowering).pins = s.pins := by simp [State.handOver]
@[simp] theorem State.handOver_wire (lowering : Bool) (s : State) : (s.handOver lowering).wire = s.wire := by simp [State.handOver]
@[simp] theorem State.handOver_straps (lowering : Bool) (s : State) : (s.handOver lowering).straps = s.straps := by
  simp [State.handOver]
@[simp] theorem State.handOver_config (lowering : Bool) (s : State) : (s.handOver lowering).config = s.config := by
  simp [State.handOver]
@[simp] theorem State.handOver_scan (lowering : Bool) (s : State) : (s.handOver lowering).scan = s.scan := by simp [State.handOver]
@[simp] theorem State.handOver_store (lowering : Bool) (s : State) : (s.handOver lowering).store = s.store := by simp [State.handOver]
@[simp] theorem State.handOver_feed (lowering : Bool) (s : State) : (s.handOver lowering).feed = s.feed := by simp [State.handOver]
@[simp] theorem State.handOver_table (lowering : Bool) (s : State) : (s.handOver lowering).table = s.table := by simp [State.handOver]
@[simp] theorem State.handOver_stat (lowering : Bool) (s : State) : (s.handOver lowering).stat = s.stat := by simp [State.handOver]
@[simp] theorem State.handOver_choices (lowering : Bool) (s : State) : (s.handOver lowering).choices = s.choices := by
  simp [State.handOver]
@[simp] theorem State.handOver_pending (lowering : Bool) (s : State) : (s.handOver lowering).pending = s.pending := by
  simp [State.handOver]
@[simp] theorem State.handOver_line_link (lowering : Bool) (s : State) : (s.handOver lowering).line.link = s.line.link := by
  simp [State.handOver]
@[simp] theorem State.handOver_line_admitted (lowering : Bool) (s : State) : (s.handOver lowering).line.admitted = s.line.admitted := by
  simp [State.handOver]
@[simp] theorem State.handOver_line_queue_join (lowering : Bool) (s : State) : (s.handOver lowering).line.queue.join = s.line.queue.join := by
  simp [State.handOver]
@[simp] theorem State.handOver_line_queue_leave (lowering : Bool) (s : State) : (s.handOver lowering).line.queue.leave = s.line.queue.leave := by
  simp [State.handOver]
@[simp] theorem State.handOver_line_queue_reports (lowering : Bool) (s : State) : (s.handOver lowering).line.queue.reports = s.line.queue.reports := by
  simp [State.handOver]
@[simp] theorem State.handOver_line_queue_reportOnLine (lowering : Bool) (s : State) : (s.handOver lowering).line.queue.reportOnLine = s.line.queue.reportOnLine := by
  simp [State.handOver]
@[simp] theorem State.handOver_line_vetoRun (lowering : Bool) (s : State) : (s.handOver lowering).line.vetoRun = s.line.vetoRun := by
  simp [State.handOver]
@[simp] theorem State.handOver_line_timers (lowering : Bool) (s : State) : (s.handOver lowering).line.timers = s.line.timers := by
  simp [State.handOver]
@[simp] theorem State.handOver_line_lastAnnounced (lowering : Bool) (s : State) : (s.handOver lowering).line.lastAnnounced = s.line.lastAnnounced := by
  simp [State.handOver]
@[simp] theorem State.handOver_line_isolated (lowering : Bool) (s : State) : (s.handOver lowering).line.isolated = s.line.isolated := by
  simp [State.handOver]

/-! ### A recompute -/

@[simp] theorem State.recompute_power (before : List Row) (s : State) : (s.recompute before).power = s.power := by
  simp [State.recompute]
@[simp] theorem State.recompute_fuses (before : List Row) (s : State) : (s.recompute before).fuses = s.fuses := by
  simp [State.recompute]
@[simp] theorem State.recompute_tag (before : List Row) (s : State) : (s.recompute before).tag = s.tag := by simp [State.recompute]
@[simp] theorem State.recompute_pins (before : List Row) (s : State) : (s.recompute before).pins = s.pins := by simp [State.recompute]
@[simp] theorem State.recompute_wire (before : List Row) (s : State) : (s.recompute before).wire = s.wire := by simp [State.recompute]
@[simp] theorem State.recompute_straps (before : List Row) (s : State) : (s.recompute before).straps = s.straps := by
  simp [State.recompute]
@[simp] theorem State.recompute_config (before : List Row) (s : State) : (s.recompute before).config = s.config := by
  simp [State.recompute]
@[simp] theorem State.recompute_scan (before : List Row) (s : State) : (s.recompute before).scan = s.scan := by simp [State.recompute]
@[simp] theorem State.recompute_store (before : List Row) (s : State) : (s.recompute before).store = s.store := by
  simp [State.recompute]
@[simp] theorem State.recompute_feed (before : List Row) (s : State) : (s.recompute before).feed = s.feed := by simp [State.recompute]
@[simp] theorem State.recompute_stat (before : List Row) (s : State) : (s.recompute before).stat = s.stat := by simp [State.recompute]
@[simp] theorem State.recompute_choices (before : List Row) (s : State) : (s.recompute before).choices = s.choices := by
  simp [State.recompute]
@[simp] theorem State.recompute_pending (before : List Row) (s : State) : (s.recompute before).pending = s.pending := by
  simp [State.recompute]
@[simp] theorem State.recompute_line_link (before : List Row) (s : State) : (s.recompute before).line.link = s.line.link := by
  simp [State.recompute]
@[simp] theorem State.recompute_line_admitted (before : List Row) (s : State) : (s.recompute before).line.admitted = s.line.admitted := by
  simp [State.recompute]
@[simp] theorem State.recompute_line_queue_join (before : List Row) (s : State) : (s.recompute before).line.queue.join = s.line.queue.join := by
  simp [State.recompute]
@[simp] theorem State.recompute_line_queue_leave (before : List Row) (s : State) : (s.recompute before).line.queue.leave = s.line.queue.leave := by
  simp [State.recompute]
@[simp] theorem State.recompute_line_queue_reports (before : List Row) (s : State) : (s.recompute before).line.queue.reports = s.line.queue.reports := by
  simp [State.recompute]
@[simp] theorem State.recompute_line_queue_reportOnLine (before : List Row) (s : State) : (s.recompute before).line.queue.reportOnLine = s.line.queue.reportOnLine := by
  simp [State.recompute]
@[simp] theorem State.recompute_line_vetoRun (before : List Row) (s : State) : (s.recompute before).line.vetoRun = s.line.vetoRun := by
  simp [State.recompute]
@[simp] theorem State.recompute_line_timers (before : List Row) (s : State) : (s.recompute before).line.timers = s.line.timers := by
  simp [State.recompute]
@[simp] theorem State.recompute_line_lastAnnounced (before : List Row) (s : State) : (s.recompute before).line.lastAnnounced = s.line.lastAnnounced := by
  simp [State.recompute]
@[simp] theorem State.recompute_line_isolated (before : List Row) (s : State) : (s.recompute before).line.isolated = s.line.isolated := by
  simp [State.recompute]

/-! ### One row changes -/

@[simp] theorem State.putRowOf_power (n : Nat) (new : Option Row) (s : State) : (s.putRowOf n new).power = s.power := by
  unfold State.putRowOf; (repeat' split) <;> simp
@[simp] theorem State.putRowOf_fuses (n : Nat) (new : Option Row) (s : State) : (s.putRowOf n new).fuses = s.fuses := by
  unfold State.putRowOf; (repeat' split) <;> simp
@[simp] theorem State.putRowOf_tag (n : Nat) (new : Option Row) (s : State) : (s.putRowOf n new).tag = s.tag := by
  unfold State.putRowOf; (repeat' split) <;> simp
@[simp] theorem State.putRowOf_pins (n : Nat) (new : Option Row) (s : State) : (s.putRowOf n new).pins = s.pins := by
  unfold State.putRowOf; (repeat' split) <;> simp
@[simp] theorem State.putRowOf_wire (n : Nat) (new : Option Row) (s : State) : (s.putRowOf n new).wire = s.wire := by
  unfold State.putRowOf; (repeat' split) <;> simp
@[simp] theorem State.putRowOf_straps (n : Nat) (new : Option Row) (s : State) : (s.putRowOf n new).straps = s.straps := by
  unfold State.putRowOf; (repeat' split) <;> simp
@[simp] theorem State.putRowOf_config (n : Nat) (new : Option Row) (s : State) : (s.putRowOf n new).config = s.config := by
  unfold State.putRowOf; (repeat' split) <;> simp
@[simp] theorem State.putRowOf_scan (n : Nat) (new : Option Row) (s : State) : (s.putRowOf n new).scan = s.scan := by
  unfold State.putRowOf; (repeat' split) <;> simp
@[simp] theorem State.putRowOf_store (n : Nat) (new : Option Row) (s : State) : (s.putRowOf n new).store = s.store := by
  unfold State.putRowOf; (repeat' split) <;> simp
@[simp] theorem State.putRowOf_feed (n : Nat) (new : Option Row) (s : State) : (s.putRowOf n new).feed = s.feed := by
  unfold State.putRowOf; (repeat' split) <;> simp
@[simp] theorem State.putRowOf_stat (n : Nat) (new : Option Row) (s : State) : (s.putRowOf n new).stat = s.stat := by
  unfold State.putRowOf; (repeat' split) <;> simp
@[simp] theorem State.putRowOf_choices (n : Nat) (new : Option Row) (s : State) : (s.putRowOf n new).choices = s.choices := by
  unfold State.putRowOf; (repeat' split) <;> simp
@[simp] theorem State.putRowOf_pending (n : Nat) (new : Option Row) (s : State) : (s.putRowOf n new).pending = s.pending := by
  unfold State.putRowOf; (repeat' split) <;> simp
@[simp] theorem State.putRowOf_line_link (n : Nat) (new : Option Row) (s : State) : (s.putRowOf n new).line.link = s.line.link := by
  unfold State.putRowOf; (repeat' split) <;> simp
@[simp] theorem State.putRowOf_line_admitted (n : Nat) (new : Option Row) (s : State) : (s.putRowOf n new).line.admitted = s.line.admitted := by
  unfold State.putRowOf; (repeat' split) <;> simp
@[simp] theorem State.putRowOf_line_queue_join (n : Nat) (new : Option Row) (s : State) : (s.putRowOf n new).line.queue.join = s.line.queue.join := by
  unfold State.putRowOf; (repeat' split) <;> simp
@[simp] theorem State.putRowOf_line_queue_leave (n : Nat) (new : Option Row) (s : State) : (s.putRowOf n new).line.queue.leave = s.line.queue.leave := by
  unfold State.putRowOf; (repeat' split) <;> simp
@[simp] theorem State.putRowOf_line_queue_reports (n : Nat) (new : Option Row) (s : State) : (s.putRowOf n new).line.queue.reports = s.line.queue.reports := by
  unfold State.putRowOf; (repeat' split) <;> simp
@[simp] theorem State.putRowOf_line_queue_reportOnLine (n : Nat) (new : Option Row) (s : State) : (s.putRowOf n new).line.queue.reportOnLine = s.line.queue.reportOnLine := by
  unfold State.putRowOf; (repeat' split) <;> simp
@[simp] theorem State.putRowOf_line_vetoRun (n : Nat) (new : Option Row) (s : State) : (s.putRowOf n new).line.vetoRun = s.line.vetoRun := by
  unfold State.putRowOf; (repeat' split) <;> simp
@[simp] theorem State.putRowOf_line_timers (n : Nat) (new : Option Row) (s : State) : (s.putRowOf n new).line.timers = s.line.timers := by
  unfold State.putRowOf; (repeat' split) <;> simp
@[simp] theorem State.putRowOf_line_lastAnnounced (n : Nat) (new : Option Row) (s : State) : (s.putRowOf n new).line.lastAnnounced = s.line.lastAnnounced := by
  unfold State.putRowOf; (repeat' split) <;> simp
@[simp] theorem State.putRowOf_line_isolated (n : Nat) (new : Option Row) (s : State) : (s.putRowOf n new).line.isolated = s.line.isolated := by
  unfold State.putRowOf; (repeat' split) <;> simp

/-! ### The cap stage takes a value -/

@[simp] theorem State.putStage_power (stage : Nat) (s : State) : (s.putStage stage).power = s.power := by
  unfold State.putStage; (repeat' split) <;> simp
@[simp] theorem State.putStage_fuses (stage : Nat) (s : State) : (s.putStage stage).fuses = s.fuses := by
  unfold State.putStage; (repeat' split) <;> simp
@[simp] theorem State.putStage_tag (stage : Nat) (s : State) : (s.putStage stage).tag = s.tag := by
  unfold State.putStage; (repeat' split) <;> simp
@[simp] theorem State.putStage_pins (stage : Nat) (s : State) : (s.putStage stage).pins = s.pins := by
  unfold State.putStage; (repeat' split) <;> simp
@[simp] theorem State.putStage_wire (stage : Nat) (s : State) : (s.putStage stage).wire = s.wire := by
  unfold State.putStage; (repeat' split) <;> simp
@[simp] theorem State.putStage_straps (stage : Nat) (s : State) : (s.putStage stage).straps = s.straps := by
  unfold State.putStage; (repeat' split) <;> simp
@[simp] theorem State.putStage_config (stage : Nat) (s : State) : (s.putStage stage).config = s.config := by
  unfold State.putStage; (repeat' split) <;> simp
@[simp] theorem State.putStage_scan (stage : Nat) (s : State) : (s.putStage stage).scan = s.scan := by
  unfold State.putStage; (repeat' split) <;> simp
@[simp] theorem State.putStage_store (stage : Nat) (s : State) : (s.putStage stage).store = s.store := by
  unfold State.putStage; (repeat' split) <;> simp
@[simp] theorem State.putStage_stat (stage : Nat) (s : State) : (s.putStage stage).stat = s.stat := by
  unfold State.putStage; (repeat' split) <;> simp
@[simp] theorem State.putStage_choices (stage : Nat) (s : State) : (s.putStage stage).choices = s.choices := by
  unfold State.putStage; (repeat' split) <;> simp
@[simp] theorem State.putStage_pending (stage : Nat) (s : State) : (s.putStage stage).pending = s.pending := by
  unfold State.putStage; (repeat' split) <;> simp
@[simp] theorem State.putStage_feed_droop (stage : Nat) (s : State) : (s.putStage stage).feed.droop = s.feed.droop := by
  unfold State.putStage; (repeat' split) <;> simp
@[simp] theorem State.putStage_feed_drive (stage : Nat) (s : State) : (s.putStage stage).feed.drive = s.feed.drive := by
  unfold State.putStage; (repeat' split) <;> simp
@[simp] theorem State.putStage_feed_rearm (stage : Nat) (s : State) : (s.putStage stage).feed.rearm = s.feed.rearm := by
  unfold State.putStage; (repeat' split) <;> simp
@[simp] theorem State.putStage_feed_tracking (stage : Nat) (s : State) : (s.putStage stage).feed.tracking = s.feed.tracking := by
  unfold State.putStage; (repeat' split) <;> simp
@[simp] theorem State.putStage_feed_low (stage : Nat) (s : State) : (s.putStage stage).feed.low = s.feed.low := by
  unfold State.putStage; (repeat' split) <;> simp
@[simp] theorem State.putStage_feed_stuck (stage : Nat) (s : State) : (s.putStage stage).feed.stuck = s.feed.stuck := by
  unfold State.putStage; (repeat' split) <;> simp
@[simp] theorem State.putStage_feed_quiet (stage : Nat) (s : State) : (s.putStage stage).feed.quiet = s.feed.quiet := by
  unfold State.putStage; (repeat' split) <;> simp
@[simp] theorem State.putStage_line_link (stage : Nat) (s : State) : (s.putStage stage).line.link = s.line.link := by
  unfold State.putStage; (repeat' split) <;> simp
@[simp] theorem State.putStage_line_admitted (stage : Nat) (s : State) : (s.putStage stage).line.admitted = s.line.admitted := by
  unfold State.putStage; (repeat' split) <;> simp
@[simp] theorem State.putStage_line_queue_join (stage : Nat) (s : State) : (s.putStage stage).line.queue.join = s.line.queue.join := by
  unfold State.putStage; (repeat' split) <;> simp
@[simp] theorem State.putStage_line_queue_leave (stage : Nat) (s : State) : (s.putStage stage).line.queue.leave = s.line.queue.leave := by
  unfold State.putStage; (repeat' split) <;> simp
@[simp] theorem State.putStage_line_queue_reports (stage : Nat) (s : State) : (s.putStage stage).line.queue.reports = s.line.queue.reports := by
  unfold State.putStage; (repeat' split) <;> simp
@[simp] theorem State.putStage_line_queue_reportOnLine (stage : Nat) (s : State) : (s.putStage stage).line.queue.reportOnLine = s.line.queue.reportOnLine := by
  unfold State.putStage; (repeat' split) <;> simp
@[simp] theorem State.putStage_line_vetoRun (stage : Nat) (s : State) : (s.putStage stage).line.vetoRun = s.line.vetoRun := by
  unfold State.putStage; (repeat' split) <;> simp
@[simp] theorem State.putStage_line_timers (stage : Nat) (s : State) : (s.putStage stage).line.timers = s.line.timers := by
  unfold State.putStage; (repeat' split) <;> simp
@[simp] theorem State.putStage_line_lastAnnounced (stage : Nat) (s : State) : (s.putStage stage).line.lastAnnounced = s.line.lastAnnounced := by
  unfold State.putStage; (repeat' split) <;> simp
@[simp] theorem State.putStage_line_isolated (stage : Nat) (s : State) : (s.putStage stage).line.isolated = s.line.isolated := by
  unfold State.putStage; (repeat' split) <;> simp

/-! ### T and L become 0 -/

@[simp] theorem State.zeroCommit_power (s : State) : s.zeroCommit.power = s.power := by simp [State.zeroCommit]
@[simp] theorem State.zeroCommit_fuses (s : State) : s.zeroCommit.fuses = s.fuses := by simp [State.zeroCommit]
@[simp] theorem State.zeroCommit_tag (s : State) : s.zeroCommit.tag = s.tag := by simp [State.zeroCommit]
@[simp] theorem State.zeroCommit_pins (s : State) : s.zeroCommit.pins = s.pins := by simp [State.zeroCommit]
@[simp] theorem State.zeroCommit_wire (s : State) : s.zeroCommit.wire = s.wire := by simp [State.zeroCommit]
@[simp] theorem State.zeroCommit_straps (s : State) : s.zeroCommit.straps = s.straps := by simp [State.zeroCommit]
@[simp] theorem State.zeroCommit_config (s : State) : s.zeroCommit.config = s.config := by simp [State.zeroCommit]
@[simp] theorem State.zeroCommit_scan (s : State) : s.zeroCommit.scan = s.scan := by simp [State.zeroCommit]
@[simp] theorem State.zeroCommit_store (s : State) : s.zeroCommit.store = s.store := by simp [State.zeroCommit]
@[simp] theorem State.zeroCommit_feed (s : State) : s.zeroCommit.feed = s.feed := by simp [State.zeroCommit]
@[simp] theorem State.zeroCommit_table (s : State) : s.zeroCommit.table = s.table := by simp [State.zeroCommit]
@[simp] theorem State.zeroCommit_stat (s : State) : s.zeroCommit.stat = s.stat := by simp [State.zeroCommit]
@[simp] theorem State.zeroCommit_choices (s : State) : s.zeroCommit.choices = s.choices := by simp [State.zeroCommit]
@[simp] theorem State.zeroCommit_pending (s : State) : s.zeroCommit.pending = s.pending := by simp [State.zeroCommit]
@[simp] theorem State.zeroCommit_line_link (s : State) : s.zeroCommit.line.link = s.line.link := by simp [State.zeroCommit]
@[simp] theorem State.zeroCommit_line_admitted (s : State) : s.zeroCommit.line.admitted = s.line.admitted := by simp [State.zeroCommit]
@[simp] theorem State.zeroCommit_line_queue_join (s : State) : s.zeroCommit.line.queue.join = s.line.queue.join := by
  simp [State.zeroCommit]
@[simp] theorem State.zeroCommit_line_queue_leave (s : State) : s.zeroCommit.line.queue.leave = s.line.queue.leave := by
  simp [State.zeroCommit]
@[simp] theorem State.zeroCommit_line_queue_reports (s : State) : s.zeroCommit.line.queue.reports = s.line.queue.reports := by
  simp [State.zeroCommit]
@[simp] theorem State.zeroCommit_line_queue_reportOnLine (s : State) : s.zeroCommit.line.queue.reportOnLine = s.line.queue.reportOnLine := by
  simp [State.zeroCommit]
@[simp] theorem State.zeroCommit_line_vetoRun (s : State) : s.zeroCommit.line.vetoRun = s.line.vetoRun := by simp [State.zeroCommit]
@[simp] theorem State.zeroCommit_line_timers (s : State) : s.zeroCommit.line.timers = s.line.timers := by simp [State.zeroCommit]
@[simp] theorem State.zeroCommit_line_lastAnnounced (s : State) : s.zeroCommit.line.lastAnnounced = s.line.lastAnnounced := by
  simp [State.zeroCommit]
@[simp] theorem State.zeroCommit_line_isolated (s : State) : s.zeroCommit.line.isolated = s.line.isolated := by simp [State.zeroCommit]

/-! ### Entering HAILING -/

@[simp] theorem State.enterHailing_power (s : State) : s.enterHailing.power = s.power := by simp [State.enterHailing]
@[simp] theorem State.enterHailing_fuses (s : State) : s.enterHailing.fuses = s.fuses := by simp [State.enterHailing]
@[simp] theorem State.enterHailing_tag (s : State) : s.enterHailing.tag = s.tag := by simp [State.enterHailing]
@[simp] theorem State.enterHailing_pins (s : State) : s.enterHailing.pins = s.pins := by simp [State.enterHailing]
@[simp] theorem State.enterHailing_wire (s : State) : s.enterHailing.wire = s.wire := by simp [State.enterHailing]
@[simp] theorem State.enterHailing_straps (s : State) : s.enterHailing.straps = s.straps := by simp [State.enterHailing]
@[simp] theorem State.enterHailing_config (s : State) : s.enterHailing.config = s.config := by simp [State.enterHailing]
@[simp] theorem State.enterHailing_scan (s : State) : s.enterHailing.scan = s.scan := by simp [State.enterHailing]
@[simp] theorem State.enterHailing_store (s : State) : s.enterHailing.store = s.store := by simp [State.enterHailing]
@[simp] theorem State.enterHailing_feed (s : State) : s.enterHailing.feed = s.feed := by simp [State.enterHailing]
@[simp] theorem State.enterHailing_stat (s : State) : s.enterHailing.stat = s.stat := by simp [State.enterHailing]
@[simp] theorem State.enterHailing_choices (s : State) : s.enterHailing.choices = s.choices := by simp [State.enterHailing]
@[simp] theorem State.enterHailing_pending (s : State) : s.enterHailing.pending = s.pending := by simp [State.enterHailing]
@[simp] theorem State.enterHailing_line_admitted (s : State) : s.enterHailing.line.admitted = s.line.admitted := by
  simp [State.enterHailing]
@[simp] theorem State.enterHailing_line_queue_leave (s : State) : s.enterHailing.line.queue.leave = s.line.queue.leave := by
  simp [State.enterHailing]
@[simp] theorem State.enterHailing_line_vetoRun (s : State) : s.enterHailing.line.vetoRun = s.line.vetoRun := by
  simp [State.enterHailing]
@[simp] theorem State.enterHailing_line_isolated (s : State) : s.enterHailing.line.isolated = s.line.isolated := by
  simp [State.enterHailing]

/-! ### Entering HAILING from DOWN -/

@[simp] theorem State.hailFromDown_power (s : State) : s.hailFromDown.power = s.power := by simp [State.hailFromDown]
@[simp] theorem State.hailFromDown_fuses (s : State) : s.hailFromDown.fuses = s.fuses := by simp [State.hailFromDown]
@[simp] theorem State.hailFromDown_tag (s : State) : s.hailFromDown.tag = s.tag := by simp [State.hailFromDown]
@[simp] theorem State.hailFromDown_pins (s : State) : s.hailFromDown.pins = s.pins := by simp [State.hailFromDown]
@[simp] theorem State.hailFromDown_wire (s : State) : s.hailFromDown.wire = s.wire := by simp [State.hailFromDown]
@[simp] theorem State.hailFromDown_straps (s : State) : s.hailFromDown.straps = s.straps := by simp [State.hailFromDown]
@[simp] theorem State.hailFromDown_config (s : State) : s.hailFromDown.config = s.config := by simp [State.hailFromDown]
@[simp] theorem State.hailFromDown_scan (s : State) : s.hailFromDown.scan = s.scan := by simp [State.hailFromDown]
@[simp] theorem State.hailFromDown_store (s : State) : s.hailFromDown.store = s.store := by simp [State.hailFromDown]
@[simp] theorem State.hailFromDown_stat (s : State) : s.hailFromDown.stat = s.stat := by simp [State.hailFromDown]
@[simp] theorem State.hailFromDown_choices (s : State) : s.hailFromDown.choices = s.choices := by simp [State.hailFromDown]
@[simp] theorem State.hailFromDown_pending (s : State) : s.hailFromDown.pending = s.pending := by simp [State.hailFromDown]
@[simp] theorem State.hailFromDown_line_queue_leave (s : State) : s.hailFromDown.line.queue.leave = s.line.queue.leave := by
  simp [State.hailFromDown]
@[simp] theorem State.hailFromDown_line_vetoRun (s : State) : s.hailFromDown.line.vetoRun = s.line.vetoRun := by
  simp [State.hailFromDown]
@[simp] theorem State.hailFromDown_line_isolated (s : State) : s.hailFromDown.line.isolated = s.line.isolated := by
  simp [State.hailFromDown]

/-! ### Entering HAILING from MUTE -/

@[simp] theorem State.hailFromMute_power (s : State) : s.hailFromMute.power = s.power := by simp [State.hailFromMute]
@[simp] theorem State.hailFromMute_fuses (s : State) : s.hailFromMute.fuses = s.fuses := by simp [State.hailFromMute]
@[simp] theorem State.hailFromMute_tag (s : State) : s.hailFromMute.tag = s.tag := by simp [State.hailFromMute]
@[simp] theorem State.hailFromMute_pins (s : State) : s.hailFromMute.pins = s.pins := by simp [State.hailFromMute]
@[simp] theorem State.hailFromMute_wire (s : State) : s.hailFromMute.wire = s.wire := by simp [State.hailFromMute]
@[simp] theorem State.hailFromMute_straps (s : State) : s.hailFromMute.straps = s.straps := by simp [State.hailFromMute]
@[simp] theorem State.hailFromMute_config (s : State) : s.hailFromMute.config = s.config := by simp [State.hailFromMute]
@[simp] theorem State.hailFromMute_scan (s : State) : s.hailFromMute.scan = s.scan := by simp [State.hailFromMute]
@[simp] theorem State.hailFromMute_store (s : State) : s.hailFromMute.store = s.store := by simp [State.hailFromMute]
@[simp] theorem State.hailFromMute_feed (s : State) : s.hailFromMute.feed = s.feed := by simp [State.hailFromMute]
@[simp] theorem State.hailFromMute_stat (s : State) : s.hailFromMute.stat = s.stat := by simp [State.hailFromMute]
@[simp] theorem State.hailFromMute_choices (s : State) : s.hailFromMute.choices = s.choices := by simp [State.hailFromMute]
@[simp] theorem State.hailFromMute_pending (s : State) : s.hailFromMute.pending = s.pending := by simp [State.hailFromMute]
@[simp] theorem State.hailFromMute_line_queue_leave (s : State) : s.hailFromMute.line.queue.leave = s.line.queue.leave := by
  simp [State.hailFromMute]
@[simp] theorem State.hailFromMute_line_vetoRun (s : State) : s.hailFromMute.line.vetoRun = s.line.vetoRun := by
  simp [State.hailFromMute]
@[simp] theorem State.hailFromMute_line_isolated (s : State) : s.hailFromMute.line.isolated = s.line.isolated := by
  simp [State.hailFromMute]

/-! ### Entering DOWN -/

@[simp] theorem State.enterDown_power (s : State) : s.enterDown.power = s.power := by simp [State.enterDown]
@[simp] theorem State.enterDown_fuses (s : State) : s.enterDown.fuses = s.fuses := by simp [State.enterDown]
@[simp] theorem State.enterDown_tag (s : State) : s.enterDown.tag = s.tag := by simp [State.enterDown]
@[simp] theorem State.enterDown_pins (s : State) : s.enterDown.pins = s.pins := by simp [State.enterDown]
@[simp] theorem State.enterDown_wire (s : State) : s.enterDown.wire = s.wire := by simp [State.enterDown]
@[simp] theorem State.enterDown_straps (s : State) : s.enterDown.straps = s.straps := by simp [State.enterDown]
@[simp] theorem State.enterDown_config (s : State) : s.enterDown.config = s.config := by simp [State.enterDown]
@[simp] theorem State.enterDown_scan (s : State) : s.enterDown.scan = s.scan := by simp [State.enterDown]
@[simp] theorem State.enterDown_store (s : State) : s.enterDown.store = s.store := by simp [State.enterDown]
@[simp] theorem State.enterDown_stat (s : State) : s.enterDown.stat = s.stat := by simp [State.enterDown]
@[simp] theorem State.enterDown_choices (s : State) : s.enterDown.choices = s.choices := by simp [State.enterDown]
@[simp] theorem State.enterDown_pending (s : State) : s.enterDown.pending = s.pending := by simp [State.enterDown]
@[simp] theorem State.enterDown_line_queue_reports (s : State) : s.enterDown.line.queue.reports = s.line.queue.reports := by
  simp [State.enterDown]
@[simp] theorem State.enterDown_line_queue_reportOnLine (s : State) : s.enterDown.line.queue.reportOnLine = s.line.queue.reportOnLine := by
  simp [State.enterDown]
@[simp] theorem State.enterDown_line_lastAnnounced (s : State) : s.enterDown.line.lastAnnounced = s.line.lastAnnounced := by
  simp [State.enterDown]

/-! ### The end of LEAVING -/

@[simp] theorem State.endLeaving_power (s : State) : s.endLeaving.power = s.power := by
  unfold State.endLeaving; dsimp only; (repeat' split) <;> simp
@[simp] theorem State.endLeaving_fuses (s : State) : s.endLeaving.fuses = s.fuses := by
  unfold State.endLeaving; dsimp only; (repeat' split) <;> simp
@[simp] theorem State.endLeaving_tag (s : State) : s.endLeaving.tag = s.tag := by
  unfold State.endLeaving; dsimp only; (repeat' split) <;> simp
@[simp] theorem State.endLeaving_pins (s : State) : s.endLeaving.pins = s.pins := by
  unfold State.endLeaving; dsimp only; (repeat' split) <;> simp
@[simp] theorem State.endLeaving_wire (s : State) : s.endLeaving.wire = s.wire := by
  unfold State.endLeaving; dsimp only; (repeat' split) <;> simp
@[simp] theorem State.endLeaving_straps (s : State) : s.endLeaving.straps = s.straps := by
  unfold State.endLeaving; dsimp only; (repeat' split) <;> simp
@[simp] theorem State.endLeaving_config (s : State) : s.endLeaving.config = s.config := by
  unfold State.endLeaving; dsimp only; (repeat' split) <;> simp
@[simp] theorem State.endLeaving_scan (s : State) : s.endLeaving.scan = s.scan := by
  unfold State.endLeaving; dsimp only; (repeat' split) <;> simp
@[simp] theorem State.endLeaving_store (s : State) : s.endLeaving.store = s.store := by
  unfold State.endLeaving; dsimp only; (repeat' split) <;> simp
@[simp] theorem State.endLeaving_stat (s : State) : s.endLeaving.stat = s.stat := by
  unfold State.endLeaving; dsimp only; (repeat' split) <;> simp
@[simp] theorem State.endLeaving_choices (s : State) : s.endLeaving.choices = s.choices := by
  unfold State.endLeaving; dsimp only; (repeat' split) <;> simp
@[simp] theorem State.endLeaving_pending (s : State) : s.endLeaving.pending = s.pending := by
  unfold State.endLeaving; dsimp only; (repeat' split) <;> simp

/-! ### Entering LEAVING -/

@[simp] theorem State.enterLeaving_power (s : State) : s.enterLeaving.power = s.power := by simp [State.enterLeaving]
@[simp] theorem State.enterLeaving_fuses (s : State) : s.enterLeaving.fuses = s.fuses := by simp [State.enterLeaving]
@[simp] theorem State.enterLeaving_tag (s : State) : s.enterLeaving.tag = s.tag := by simp [State.enterLeaving]
@[simp] theorem State.enterLeaving_pins (s : State) : s.enterLeaving.pins = s.pins := by simp [State.enterLeaving]
@[simp] theorem State.enterLeaving_wire (s : State) : s.enterLeaving.wire = s.wire := by simp [State.enterLeaving]
@[simp] theorem State.enterLeaving_straps (s : State) : s.enterLeaving.straps = s.straps := by simp [State.enterLeaving]
@[simp] theorem State.enterLeaving_config (s : State) : s.enterLeaving.config = s.config := by simp [State.enterLeaving]
@[simp] theorem State.enterLeaving_scan (s : State) : s.enterLeaving.scan = s.scan := by simp [State.enterLeaving]
@[simp] theorem State.enterLeaving_store (s : State) : s.enterLeaving.store = s.store := by simp [State.enterLeaving]
@[simp] theorem State.enterLeaving_feed (s : State) : s.enterLeaving.feed = s.feed := by simp [State.enterLeaving]
@[simp] theorem State.enterLeaving_table (s : State) : s.enterLeaving.table = s.table := by simp [State.enterLeaving]
@[simp] theorem State.enterLeaving_stat (s : State) : s.enterLeaving.stat = s.stat := by simp [State.enterLeaving]
@[simp] theorem State.enterLeaving_choices (s : State) : s.enterLeaving.choices = s.choices := by simp [State.enterLeaving]
@[simp] theorem State.enterLeaving_pending (s : State) : s.enterLeaving.pending = s.pending := by simp [State.enterLeaving]
@[simp] theorem State.enterLeaving_line_admitted (s : State) : s.enterLeaving.line.admitted = s.line.admitted := by
  simp [State.enterLeaving]
@[simp] theorem State.enterLeaving_line_queue_join (s : State) : s.enterLeaving.line.queue.join = s.line.queue.join := by
  simp [State.enterLeaving]
@[simp] theorem State.enterLeaving_line_vetoRun (s : State) : s.enterLeaving.line.vetoRun = s.line.vetoRun := by
  simp [State.enterLeaving]
@[simp] theorem State.enterLeaving_line_lastAnnounced (s : State) : s.enterLeaving.line.lastAnnounced = s.line.lastAnnounced := by
  simp [State.enterLeaving]
@[simp] theorem State.enterLeaving_line_isolated (s : State) : s.enterLeaving.line.isolated = s.line.isolated := by
  simp [State.enterLeaving]

/-! ### Entering MUTE -/

@[simp] theorem State.enterMute_power (s : State) : s.enterMute.power = s.power := by simp [State.enterMute]
@[simp] theorem State.enterMute_fuses (s : State) : s.enterMute.fuses = s.fuses := by simp [State.enterMute]
@[simp] theorem State.enterMute_tag (s : State) : s.enterMute.tag = s.tag := by simp [State.enterMute]
@[simp] theorem State.enterMute_pins (s : State) : s.enterMute.pins = s.pins := by simp [State.enterMute]
@[simp] theorem State.enterMute_wire (s : State) : s.enterMute.wire = s.wire := by simp [State.enterMute]
@[simp] theorem State.enterMute_straps (s : State) : s.enterMute.straps = s.straps := by simp [State.enterMute]
@[simp] theorem State.enterMute_config (s : State) : s.enterMute.config = s.config := by simp [State.enterMute]
@[simp] theorem State.enterMute_scan (s : State) : s.enterMute.scan = s.scan := by simp [State.enterMute]
@[simp] theorem State.enterMute_store (s : State) : s.enterMute.store = s.store := by simp [State.enterMute]
@[simp] theorem State.enterMute_feed (s : State) : s.enterMute.feed = s.feed := by simp [State.enterMute]
@[simp] theorem State.enterMute_stat (s : State) : s.enterMute.stat = s.stat := by simp [State.enterMute]
@[simp] theorem State.enterMute_choices (s : State) : s.enterMute.choices = s.choices := by simp [State.enterMute]
@[simp] theorem State.enterMute_pending (s : State) : s.enterMute.pending = s.pending := by simp [State.enterMute]
@[simp] theorem State.enterMute_line_lastAnnounced (s : State) : s.enterMute.line.lastAnnounced = s.line.lastAnnounced := by
  simp [State.enterMute]
@[simp] theorem State.enterMute_line_isolated (s : State) : s.enterMute.line.isolated = s.line.isolated := by simp [State.enterMute]

/-! ### Entering BARRED -/

@[simp] theorem State.enterBarred_power (s : State) : s.enterBarred.power = s.power := by simp [State.enterBarred]
@[simp] theorem State.enterBarred_fuses (s : State) : s.enterBarred.fuses = s.fuses := by simp [State.enterBarred]
@[simp] theorem State.enterBarred_tag (s : State) : s.enterBarred.tag = s.tag := by simp [State.enterBarred]
@[simp] theorem State.enterBarred_pins (s : State) : s.enterBarred.pins = s.pins := by simp [State.enterBarred]
@[simp] theorem State.enterBarred_wire (s : State) : s.enterBarred.wire = s.wire := by simp [State.enterBarred]
@[simp] theorem State.enterBarred_straps (s : State) : s.enterBarred.straps = s.straps := by simp [State.enterBarred]
@[simp] theorem State.enterBarred_config (s : State) : s.enterBarred.config = s.config := by simp [State.enterBarred]
@[simp] theorem State.enterBarred_scan (s : State) : s.enterBarred.scan = s.scan := by simp [State.enterBarred]
@[simp] theorem State.enterBarred_store (s : State) : s.enterBarred.store = s.store := by simp [State.enterBarred]
@[simp] theorem State.enterBarred_stat (s : State) : s.enterBarred.stat = s.stat := by simp [State.enterBarred]
@[simp] theorem State.enterBarred_choices (s : State) : s.enterBarred.choices = s.choices := by simp [State.enterBarred]
@[simp] theorem State.enterBarred_pending (s : State) : s.enterBarred.pending = s.pending := by simp [State.enterBarred]
@[simp] theorem State.enterBarred_line_lastAnnounced (s : State) : s.enterBarred.line.lastAnnounced = s.line.lastAnnounced := by
  simp [State.enterBarred]
@[simp] theorem State.enterBarred_line_isolated (s : State) : s.enterBarred.line.isolated = s.line.isolated := by
  simp [State.enterBarred]

/-! ### A frame begins -/

@[simp] theorem State.beginFrame_power (s : State) : s.beginFrame.power = s.power := by
  unfold State.beginFrame; (repeat' split) <;> simp
@[simp] theorem State.beginFrame_fuses (s : State) : s.beginFrame.fuses = s.fuses := by
  unfold State.beginFrame; (repeat' split) <;> simp
@[simp] theorem State.beginFrame_tag (s : State) : s.beginFrame.tag = s.tag := by unfold State.beginFrame; (repeat' split) <;> simp
@[simp] theorem State.beginFrame_pins (s : State) : s.beginFrame.pins = s.pins := by unfold State.beginFrame; (repeat' split) <;> simp
@[simp] theorem State.beginFrame_straps (s : State) : s.beginFrame.straps = s.straps := by
  unfold State.beginFrame; (repeat' split) <;> simp
@[simp] theorem State.beginFrame_config (s : State) : s.beginFrame.config = s.config := by
  unfold State.beginFrame; (repeat' split) <;> simp
@[simp] theorem State.beginFrame_scan (s : State) : s.beginFrame.scan = s.scan := by unfold State.beginFrame; (repeat' split) <;> simp
@[simp] theorem State.beginFrame_store (s : State) : s.beginFrame.store = s.store := by
  unfold State.beginFrame; (repeat' split) <;> simp
@[simp] theorem State.beginFrame_feed (s : State) : s.beginFrame.feed = s.feed := by unfold State.beginFrame; (repeat' split) <;> simp
@[simp] theorem State.beginFrame_table (s : State) : s.beginFrame.table = s.table := by
  unfold State.beginFrame; (repeat' split) <;> simp
@[simp] theorem State.beginFrame_commit (s : State) : s.beginFrame.commit = s.commit := by
  unfold State.beginFrame; (repeat' split) <;> simp
@[simp] theorem State.beginFrame_bay (s : State) : s.beginFrame.bay = s.bay := by unfold State.beginFrame; (repeat' split) <;> simp
@[simp] theorem State.beginFrame_stat (s : State) : s.beginFrame.stat = s.stat := by unfold State.beginFrame; (repeat' split) <;> simp
@[simp] theorem State.beginFrame_choices (s : State) : s.beginFrame.choices = s.choices := by
  unfold State.beginFrame; (repeat' split) <;> simp
@[simp] theorem State.beginFrame_pending (s : State) : s.beginFrame.pending = s.pending := by
  unfold State.beginFrame; (repeat' split) <;> simp
@[simp] theorem State.beginFrame_line_link (s : State) : s.beginFrame.line.link = s.line.link := by
  unfold State.beginFrame; (repeat' split) <;> simp
@[simp] theorem State.beginFrame_line_admitted (s : State) : s.beginFrame.line.admitted = s.line.admitted := by
  unfold State.beginFrame; (repeat' split) <;> simp
@[simp] theorem State.beginFrame_line_vetoRun (s : State) : s.beginFrame.line.vetoRun = s.line.vetoRun := by
  unfold State.beginFrame; (repeat' split) <;> simp
@[simp] theorem State.beginFrame_line_timers (s : State) : s.beginFrame.line.timers = s.line.timers := by
  unfold State.beginFrame; (repeat' split) <;> simp
@[simp] theorem State.beginFrame_line_lastAnnounced (s : State) : s.beginFrame.line.lastAnnounced = s.line.lastAnnounced := by
  unfold State.beginFrame; (repeat' split) <;> simp
@[simp] theorem State.beginFrame_line_isolated (s : State) : s.beginFrame.line.isolated = s.line.isolated := by
  unfold State.beginFrame; (repeat' split) <;> simp

/-! ### The STAT pattern is chosen -/

@[simp] theorem State.selectPattern_power (s : State) : s.selectPattern.power = s.power := by
  unfold State.selectPattern; dsimp only; (repeat' split) <;> simp
@[simp] theorem State.selectPattern_fuses (s : State) : s.selectPattern.fuses = s.fuses := by
  unfold State.selectPattern; dsimp only; (repeat' split) <;> simp
@[simp] theorem State.selectPattern_tag (s : State) : s.selectPattern.tag = s.tag := by
  unfold State.selectPattern; dsimp only; (repeat' split) <;> simp
@[simp] theorem State.selectPattern_pins (s : State) : s.selectPattern.pins = s.pins := by
  unfold State.selectPattern; dsimp only; (repeat' split) <;> simp
@[simp] theorem State.selectPattern_wire (s : State) : s.selectPattern.wire = s.wire := by
  unfold State.selectPattern; dsimp only; (repeat' split) <;> simp
@[simp] theorem State.selectPattern_straps (s : State) : s.selectPattern.straps = s.straps := by
  unfold State.selectPattern; dsimp only; (repeat' split) <;> simp
@[simp] theorem State.selectPattern_config (s : State) : s.selectPattern.config = s.config := by
  unfold State.selectPattern; dsimp only; (repeat' split) <;> simp
@[simp] theorem State.selectPattern_scan (s : State) : s.selectPattern.scan = s.scan := by
  unfold State.selectPattern; dsimp only; (repeat' split) <;> simp
@[simp] theorem State.selectPattern_store (s : State) : s.selectPattern.store = s.store := by
  unfold State.selectPattern; dsimp only; (repeat' split) <;> simp
@[simp] theorem State.selectPattern_feed (s : State) : s.selectPattern.feed = s.feed := by
  unfold State.selectPattern; dsimp only; (repeat' split) <;> simp
@[simp] theorem State.selectPattern_line (s : State) : s.selectPattern.line = s.line := by
  unfold State.selectPattern; dsimp only; (repeat' split) <;> simp
@[simp] theorem State.selectPattern_table (s : State) : s.selectPattern.table = s.table := by
  unfold State.selectPattern; dsimp only; (repeat' split) <;> simp
@[simp] theorem State.selectPattern_commit (s : State) : s.selectPattern.commit = s.commit := by
  unfold State.selectPattern; dsimp only; (repeat' split) <;> simp
@[simp] theorem State.selectPattern_bay (s : State) : s.selectPattern.bay = s.bay := by
  unfold State.selectPattern; dsimp only; (repeat' split) <;> simp
@[simp] theorem State.selectPattern_choices (s : State) : s.selectPattern.choices = s.choices := by
  unfold State.selectPattern; dsimp only; (repeat' split) <;> simp
@[simp] theorem State.selectPattern_pending (s : State) : s.selectPattern.pending = s.pending := by
  unfold State.selectPattern; dsimp only; (repeat' split) <;> simp

/-! ### The end of every step -/

@[simp] theorem State.settle_power (s : State) : s.settle.power = s.power := by simp [State.settle]
@[simp] theorem State.settle_fuses (s : State) : s.settle.fuses = s.fuses := by simp [State.settle]
@[simp] theorem State.settle_tag (s : State) : s.settle.tag = s.tag := by simp [State.settle]
@[simp] theorem State.settle_pins (s : State) : s.settle.pins = s.pins := by simp [State.settle]
@[simp] theorem State.settle_straps (s : State) : s.settle.straps = s.straps := by simp [State.settle]
@[simp] theorem State.settle_config (s : State) : s.settle.config = s.config := by simp [State.settle]
@[simp] theorem State.settle_scan (s : State) : s.settle.scan = s.scan := by simp [State.settle]
@[simp] theorem State.settle_store (s : State) : s.settle.store = s.store := by simp [State.settle]
@[simp] theorem State.settle_feed (s : State) : s.settle.feed = s.feed := by simp [State.settle]
@[simp] theorem State.settle_table (s : State) : s.settle.table = s.table := by simp [State.settle]
@[simp] theorem State.settle_commit (s : State) : s.settle.commit = s.commit := by simp [State.settle]
@[simp] theorem State.settle_bay (s : State) : s.settle.bay = s.bay := by simp [State.settle]
@[simp] theorem State.settle_choices (s : State) : s.settle.choices = s.choices := by simp [State.settle]
@[simp] theorem State.settle_pending (s : State) : s.settle.pending = s.pending := by simp [State.settle]
@[simp] theorem State.settle_line_link (s : State) : s.settle.line.link = s.line.link := by simp [State.settle]
@[simp] theorem State.settle_line_admitted (s : State) : s.settle.line.admitted = s.line.admitted := by simp [State.settle]
@[simp] theorem State.settle_line_vetoRun (s : State) : s.settle.line.vetoRun = s.line.vetoRun := by simp [State.settle]
@[simp] theorem State.settle_line_timers (s : State) : s.settle.line.timers = s.line.timers := by simp [State.settle]
@[simp] theorem State.settle_line_lastAnnounced (s : State) : s.settle.line.lastAnnounced = s.line.lastAnnounced := by
  simp [State.settle]
@[simp] theorem State.settle_line_isolated (s : State) : s.settle.line.isolated = s.line.isolated := by simp [State.settle]

/-! ### A frame ends on SHL -/

@[simp] theorem State.lineEnds_power (s : State) : s.lineEnds.power = s.power := rfl
@[simp] theorem State.lineEnds_fuses (s : State) : s.lineEnds.fuses = s.fuses := rfl
@[simp] theorem State.lineEnds_tag (s : State) : s.lineEnds.tag = s.tag := rfl
@[simp] theorem State.lineEnds_pins (s : State) : s.lineEnds.pins = s.pins := rfl
@[simp] theorem State.lineEnds_straps (s : State) : s.lineEnds.straps = s.straps := rfl
@[simp] theorem State.lineEnds_config (s : State) : s.lineEnds.config = s.config := rfl
@[simp] theorem State.lineEnds_scan (s : State) : s.lineEnds.scan = s.scan := rfl
@[simp] theorem State.lineEnds_store (s : State) : s.lineEnds.store = s.store := rfl
@[simp] theorem State.lineEnds_feed (s : State) : s.lineEnds.feed = s.feed := rfl
@[simp] theorem State.lineEnds_line (s : State) : s.lineEnds.line = s.line := rfl
@[simp] theorem State.lineEnds_table (s : State) : s.lineEnds.table = s.table := rfl
@[simp] theorem State.lineEnds_commit (s : State) : s.lineEnds.commit = s.commit := rfl
@[simp] theorem State.lineEnds_bay (s : State) : s.lineEnds.bay = s.bay := rfl
@[simp] theorem State.lineEnds_stat (s : State) : s.lineEnds.stat = s.stat := rfl
@[simp] theorem State.lineEnds_choices (s : State) : s.lineEnds.choices = s.choices := rfl
@[simp] theorem State.lineEnds_pending (s : State) : s.lineEnds.pending = s.pending := rfl

/-! ### A veto window is sampled low -/

@[simp] theorem State.vetoWindow_power (mine : Bool) (s : State) : (s.vetoWindow mine).power = s.power := by
  unfold State.vetoWindow; (repeat' split) <;> simp
@[simp] theorem State.vetoWindow_fuses (mine : Bool) (s : State) : (s.vetoWindow mine).fuses = s.fuses := by
  unfold State.vetoWindow; (repeat' split) <;> simp
@[simp] theorem State.vetoWindow_tag (mine : Bool) (s : State) : (s.vetoWindow mine).tag = s.tag := by
  unfold State.vetoWindow; (repeat' split) <;> simp
@[simp] theorem State.vetoWindow_pins (mine : Bool) (s : State) : (s.vetoWindow mine).pins = s.pins := by
  unfold State.vetoWindow; (repeat' split) <;> simp
@[simp] theorem State.vetoWindow_wire (mine : Bool) (s : State) : (s.vetoWindow mine).wire = s.wire := by
  unfold State.vetoWindow; (repeat' split) <;> simp
@[simp] theorem State.vetoWindow_straps (mine : Bool) (s : State) : (s.vetoWindow mine).straps = s.straps := by
  unfold State.vetoWindow; (repeat' split) <;> simp
@[simp] theorem State.vetoWindow_config (mine : Bool) (s : State) : (s.vetoWindow mine).config = s.config := by
  unfold State.vetoWindow; (repeat' split) <;> simp
@[simp] theorem State.vetoWindow_scan (mine : Bool) (s : State) : (s.vetoWindow mine).scan = s.scan := by
  unfold State.vetoWindow; (repeat' split) <;> simp
@[simp] theorem State.vetoWindow_store (mine : Bool) (s : State) : (s.vetoWindow mine).store = s.store := by
  unfold State.vetoWindow; (repeat' split) <;> simp
@[simp] theorem State.vetoWindow_feed (mine : Bool) (s : State) : (s.vetoWindow mine).feed = s.feed := by
  unfold State.vetoWindow; (repeat' split) <;> simp
@[simp] theorem State.vetoWindow_stat (mine : Bool) (s : State) : (s.vetoWindow mine).stat = s.stat := by
  unfold State.vetoWindow; (repeat' split) <;> simp
@[simp] theorem State.vetoWindow_choices (mine : Bool) (s : State) : (s.vetoWindow mine).choices = s.choices := by
  unfold State.vetoWindow; (repeat' split) <;> simp
@[simp] theorem State.vetoWindow_pending (mine : Bool) (s : State) : (s.vetoWindow mine).pending = s.pending := by
  unfold State.vetoWindow; (repeat' split) <;> simp
@[simp] theorem State.vetoWindow_line_lastAnnounced (mine : Bool) (s : State) : (s.vetoWindow mine).line.lastAnnounced = s.line.lastAnnounced := by
  unfold State.vetoWindow; (repeat' split) <;> simp
@[simp] theorem State.vetoWindow_line_isolated (mine : Bool) (s : State) : (s.vetoWindow mine).line.isolated = s.line.isolated := by
  unfold State.vetoWindow; (repeat' split) <;> simp

/-! ### Adoption -/

@[simp] theorem State.adopt_power (b : DemandBody) (s : State) : (s.adopt b).power = s.power := by
  unfold State.adopt; (repeat' split) <;> simp
@[simp] theorem State.adopt_fuses (b : DemandBody) (s : State) : (s.adopt b).fuses = s.fuses := by
  unfold State.adopt; (repeat' split) <;> simp
@[simp] theorem State.adopt_tag (b : DemandBody) (s : State) : (s.adopt b).tag = s.tag := by
  unfold State.adopt; (repeat' split) <;> simp
@[simp] theorem State.adopt_pins (b : DemandBody) (s : State) : (s.adopt b).pins = s.pins := by
  unfold State.adopt; (repeat' split) <;> simp
@[simp] theorem State.adopt_wire (b : DemandBody) (s : State) : (s.adopt b).wire = s.wire := by
  unfold State.adopt; (repeat' split) <;> simp
@[simp] theorem State.adopt_straps (b : DemandBody) (s : State) : (s.adopt b).straps = s.straps := by
  unfold State.adopt; (repeat' split) <;> simp
@[simp] theorem State.adopt_config (b : DemandBody) (s : State) : (s.adopt b).config = s.config := by
  unfold State.adopt; (repeat' split) <;> simp
@[simp] theorem State.adopt_scan (b : DemandBody) (s : State) : (s.adopt b).scan = s.scan := by
  unfold State.adopt; (repeat' split) <;> simp
@[simp] theorem State.adopt_store (b : DemandBody) (s : State) : (s.adopt b).store = s.store := by
  unfold State.adopt; (repeat' split) <;> simp
@[simp] theorem State.adopt_stat (b : DemandBody) (s : State) : (s.adopt b).stat = s.stat := by
  unfold State.adopt; (repeat' split) <;> simp
@[simp] theorem State.adopt_choices (b : DemandBody) (s : State) : (s.adopt b).choices = s.choices := by
  unfold State.adopt; (repeat' split) <;> simp
@[simp] theorem State.adopt_pending (b : DemandBody) (s : State) : (s.adopt b).pending = s.pending := by
  unfold State.adopt; (repeat' split) <;> simp
@[simp] theorem State.adopt_feed_droop (b : DemandBody) (s : State) : (s.adopt b).feed.droop = s.feed.droop := by
  unfold State.adopt; (repeat' split) <;> simp
@[simp] theorem State.adopt_feed_drive (b : DemandBody) (s : State) : (s.adopt b).feed.drive = s.feed.drive := by
  unfold State.adopt; (repeat' split) <;> simp
@[simp] theorem State.adopt_feed_rearm (b : DemandBody) (s : State) : (s.adopt b).feed.rearm = s.feed.rearm := by
  unfold State.adopt; (repeat' split) <;> simp
@[simp] theorem State.adopt_feed_tracking (b : DemandBody) (s : State) : (s.adopt b).feed.tracking = s.feed.tracking := by
  unfold State.adopt; (repeat' split) <;> simp
@[simp] theorem State.adopt_feed_low (b : DemandBody) (s : State) : (s.adopt b).feed.low = s.feed.low := by
  unfold State.adopt; (repeat' split) <;> simp
@[simp] theorem State.adopt_feed_stuck (b : DemandBody) (s : State) : (s.adopt b).feed.stuck = s.feed.stuck := by
  unfold State.adopt; (repeat' split) <;> simp
@[simp] theorem State.adopt_line_link (b : DemandBody) (s : State) : (s.adopt b).line.link = s.line.link := by
  unfold State.adopt; (repeat' split) <;> simp
@[simp] theorem State.adopt_line_admitted (b : DemandBody) (s : State) : (s.adopt b).line.admitted = s.line.admitted := by
  unfold State.adopt; (repeat' split) <;> simp
@[simp] theorem State.adopt_line_queue_join (b : DemandBody) (s : State) : (s.adopt b).line.queue.join = s.line.queue.join := by
  unfold State.adopt; (repeat' split) <;> simp
@[simp] theorem State.adopt_line_queue_leave (b : DemandBody) (s : State) : (s.adopt b).line.queue.leave = s.line.queue.leave := by
  unfold State.adopt; (repeat' split) <;> simp
@[simp] theorem State.adopt_line_queue_reports (b : DemandBody) (s : State) : (s.adopt b).line.queue.reports = s.line.queue.reports := by
  unfold State.adopt; (repeat' split) <;> simp
@[simp] theorem State.adopt_line_queue_reportOnLine (b : DemandBody) (s : State) : (s.adopt b).line.queue.reportOnLine = s.line.queue.reportOnLine := by
  unfold State.adopt; (repeat' split) <;> simp
@[simp] theorem State.adopt_line_vetoRun (b : DemandBody) (s : State) : (s.adopt b).line.vetoRun = s.line.vetoRun := by
  unfold State.adopt; (repeat' split) <;> simp
@[simp] theorem State.adopt_line_timers (b : DemandBody) (s : State) : (s.adopt b).line.timers = s.line.timers := by
  unfold State.adopt; (repeat' split) <;> simp
@[simp] theorem State.adopt_line_lastAnnounced (b : DemandBody) (s : State) : (s.adopt b).line.lastAnnounced = s.line.lastAnnounced := by
  unfold State.adopt; (repeat' split) <;> simp
@[simp] theorem State.adopt_line_isolated (b : DemandBody) (s : State) : (s.adopt b).line.isolated = s.line.isolated := by
  unfold State.adopt; (repeat' split) <;> simp

/-! ### The table takes a DEMAND -/

@[simp] theorem State.applyDemand_power (n : Nat) (b : DemandBody) (s : State) : (s.applyDemand n b).power = s.power := by
  simp [State.applyDemand]
@[simp] theorem State.applyDemand_fuses (n : Nat) (b : DemandBody) (s : State) : (s.applyDemand n b).fuses = s.fuses := by
  simp [State.applyDemand]
@[simp] theorem State.applyDemand_tag (n : Nat) (b : DemandBody) (s : State) : (s.applyDemand n b).tag = s.tag := by
  simp [State.applyDemand]
@[simp] theorem State.applyDemand_pins (n : Nat) (b : DemandBody) (s : State) : (s.applyDemand n b).pins = s.pins := by
  simp [State.applyDemand]
@[simp] theorem State.applyDemand_wire (n : Nat) (b : DemandBody) (s : State) : (s.applyDemand n b).wire = s.wire := by
  simp [State.applyDemand]
@[simp] theorem State.applyDemand_straps (n : Nat) (b : DemandBody) (s : State) : (s.applyDemand n b).straps = s.straps := by
  simp [State.applyDemand]
@[simp] theorem State.applyDemand_config (n : Nat) (b : DemandBody) (s : State) : (s.applyDemand n b).config = s.config := by
  simp [State.applyDemand]
@[simp] theorem State.applyDemand_scan (n : Nat) (b : DemandBody) (s : State) : (s.applyDemand n b).scan = s.scan := by
  simp [State.applyDemand]
@[simp] theorem State.applyDemand_store (n : Nat) (b : DemandBody) (s : State) : (s.applyDemand n b).store = s.store := by
  simp [State.applyDemand]
@[simp] theorem State.applyDemand_feed (n : Nat) (b : DemandBody) (s : State) : (s.applyDemand n b).feed = s.feed := by
  simp [State.applyDemand]
@[simp] theorem State.applyDemand_stat (n : Nat) (b : DemandBody) (s : State) : (s.applyDemand n b).stat = s.stat := by
  simp [State.applyDemand]
@[simp] theorem State.applyDemand_choices (n : Nat) (b : DemandBody) (s : State) : (s.applyDemand n b).choices = s.choices := by
  simp [State.applyDemand]
@[simp] theorem State.applyDemand_pending (n : Nat) (b : DemandBody) (s : State) : (s.applyDemand n b).pending = s.pending := by
  simp [State.applyDemand]
@[simp] theorem State.applyDemand_line_link (n : Nat) (b : DemandBody) (s : State) : (s.applyDemand n b).line.link = s.line.link := by
  simp [State.applyDemand]
@[simp] theorem State.applyDemand_line_admitted (n : Nat) (b : DemandBody) (s : State) : (s.applyDemand n b).line.admitted = s.line.admitted := by
  simp [State.applyDemand]
@[simp] theorem State.applyDemand_line_queue_join (n : Nat) (b : DemandBody) (s : State) : (s.applyDemand n b).line.queue.join = s.line.queue.join := by
  simp [State.applyDemand]
@[simp] theorem State.applyDemand_line_queue_leave (n : Nat) (b : DemandBody) (s : State) : (s.applyDemand n b).line.queue.leave = s.line.queue.leave := by
  simp [State.applyDemand]
@[simp] theorem State.applyDemand_line_queue_reports (n : Nat) (b : DemandBody) (s : State) : (s.applyDemand n b).line.queue.reports = s.line.queue.reports := by
  simp [State.applyDemand]
@[simp] theorem State.applyDemand_line_queue_reportOnLine (n : Nat) (b : DemandBody) (s : State) : (s.applyDemand n b).line.queue.reportOnLine = s.line.queue.reportOnLine := by
  simp [State.applyDemand]
@[simp] theorem State.applyDemand_line_vetoRun (n : Nat) (b : DemandBody) (s : State) : (s.applyDemand n b).line.vetoRun = s.line.vetoRun := by
  simp [State.applyDemand]
@[simp] theorem State.applyDemand_line_timers (n : Nat) (b : DemandBody) (s : State) : (s.applyDemand n b).line.timers = s.line.timers := by
  simp [State.applyDemand]
@[simp] theorem State.applyDemand_line_lastAnnounced (n : Nat) (b : DemandBody) (s : State) : (s.applyDemand n b).line.lastAnnounced = s.line.lastAnnounced := by
  simp [State.applyDemand]
@[simp] theorem State.applyDemand_line_isolated (n : Nat) (b : DemandBody) (s : State) : (s.applyDemand n b).line.isolated = s.line.isolated := by
  simp [State.applyDemand]

/-! ### Table and feed watch take a DEMAND -/

@[simp] theorem State.takeDemand_power (n : Nat) (b : DemandBody) (s : State) : (s.takeDemand n b).power = s.power := by
  unfold State.takeDemand; (repeat' split) <;> simp
@[simp] theorem State.takeDemand_fuses (n : Nat) (b : DemandBody) (s : State) : (s.takeDemand n b).fuses = s.fuses := by
  unfold State.takeDemand; (repeat' split) <;> simp
@[simp] theorem State.takeDemand_tag (n : Nat) (b : DemandBody) (s : State) : (s.takeDemand n b).tag = s.tag := by
  unfold State.takeDemand; (repeat' split) <;> simp
@[simp] theorem State.takeDemand_pins (n : Nat) (b : DemandBody) (s : State) : (s.takeDemand n b).pins = s.pins := by
  unfold State.takeDemand; (repeat' split) <;> simp
@[simp] theorem State.takeDemand_wire (n : Nat) (b : DemandBody) (s : State) : (s.takeDemand n b).wire = s.wire := by
  unfold State.takeDemand; (repeat' split) <;> simp
@[simp] theorem State.takeDemand_straps (n : Nat) (b : DemandBody) (s : State) : (s.takeDemand n b).straps = s.straps := by
  unfold State.takeDemand; (repeat' split) <;> simp
@[simp] theorem State.takeDemand_config (n : Nat) (b : DemandBody) (s : State) : (s.takeDemand n b).config = s.config := by
  unfold State.takeDemand; (repeat' split) <;> simp
@[simp] theorem State.takeDemand_scan (n : Nat) (b : DemandBody) (s : State) : (s.takeDemand n b).scan = s.scan := by
  unfold State.takeDemand; (repeat' split) <;> simp
@[simp] theorem State.takeDemand_store (n : Nat) (b : DemandBody) (s : State) : (s.takeDemand n b).store = s.store := by
  unfold State.takeDemand; (repeat' split) <;> simp
@[simp] theorem State.takeDemand_stat (n : Nat) (b : DemandBody) (s : State) : (s.takeDemand n b).stat = s.stat := by
  unfold State.takeDemand; (repeat' split) <;> simp
@[simp] theorem State.takeDemand_pending (n : Nat) (b : DemandBody) (s : State) : (s.takeDemand n b).pending = s.pending := by
  unfold State.takeDemand; (repeat' split) <;> simp
@[simp] theorem State.takeDemand_feed_droop (n : Nat) (b : DemandBody) (s : State) : (s.takeDemand n b).feed.droop = s.feed.droop := by
  unfold State.takeDemand; (repeat' split) <;> simp
@[simp] theorem State.takeDemand_feed_drive (n : Nat) (b : DemandBody) (s : State) : (s.takeDemand n b).feed.drive = s.feed.drive := by
  unfold State.takeDemand; (repeat' split) <;> simp
@[simp] theorem State.takeDemand_feed_rearm (n : Nat) (b : DemandBody) (s : State) : (s.takeDemand n b).feed.rearm = s.feed.rearm := by
  unfold State.takeDemand; (repeat' split) <;> simp
@[simp] theorem State.takeDemand_feed_tracking (n : Nat) (b : DemandBody) (s : State) : (s.takeDemand n b).feed.tracking = s.feed.tracking := by
  unfold State.takeDemand; (repeat' split) <;> simp
@[simp] theorem State.takeDemand_feed_low (n : Nat) (b : DemandBody) (s : State) : (s.takeDemand n b).feed.low = s.feed.low := by
  unfold State.takeDemand; (repeat' split) <;> simp
@[simp] theorem State.takeDemand_feed_stuck (n : Nat) (b : DemandBody) (s : State) : (s.takeDemand n b).feed.stuck = s.feed.stuck := by
  unfold State.takeDemand; (repeat' split) <;> simp
@[simp] theorem State.takeDemand_line_link (n : Nat) (b : DemandBody) (s : State) : (s.takeDemand n b).line.link = s.line.link := by
  unfold State.takeDemand; (repeat' split) <;> simp
@[simp] theorem State.takeDemand_line_admitted (n : Nat) (b : DemandBody) (s : State) : (s.takeDemand n b).line.admitted = s.line.admitted := by
  unfold State.takeDemand; (repeat' split) <;> simp
@[simp] theorem State.takeDemand_line_queue_join (n : Nat) (b : DemandBody) (s : State) : (s.takeDemand n b).line.queue.join = s.line.queue.join := by
  unfold State.takeDemand; (repeat' split) <;> simp
@[simp] theorem State.takeDemand_line_queue_leave (n : Nat) (b : DemandBody) (s : State) : (s.takeDemand n b).line.queue.leave = s.line.queue.leave := by
  unfold State.takeDemand; (repeat' split) <;> simp
@[simp] theorem State.takeDemand_line_queue_reports (n : Nat) (b : DemandBody) (s : State) : (s.takeDemand n b).line.queue.reports = s.line.queue.reports := by
  unfold State.takeDemand; (repeat' split) <;> simp
@[simp] theorem State.takeDemand_line_queue_reportOnLine (n : Nat) (b : DemandBody) (s : State) : (s.takeDemand n b).line.queue.reportOnLine = s.line.queue.reportOnLine := by
  unfold State.takeDemand; (repeat' split) <;> simp
@[simp] theorem State.takeDemand_line_vetoRun (n : Nat) (b : DemandBody) (s : State) : (s.takeDemand n b).line.vetoRun = s.line.vetoRun := by
  unfold State.takeDemand; (repeat' split) <;> simp
@[simp] theorem State.takeDemand_line_timers (n : Nat) (b : DemandBody) (s : State) : (s.takeDemand n b).line.timers = s.line.timers := by
  unfold State.takeDemand; (repeat' split) <;> simp
@[simp] theorem State.takeDemand_line_lastAnnounced (n : Nat) (b : DemandBody) (s : State) : (s.takeDemand n b).line.lastAnnounced = s.line.lastAnnounced := by
  unfold State.takeDemand; (repeat' split) <;> simp
@[simp] theorem State.takeDemand_line_isolated (n : Nat) (b : DemandBody) (s : State) : (s.takeDemand n b).line.isolated = s.line.isolated := by
  unfold State.takeDemand; (repeat' split) <;> simp

/-! ### An edge of SHL ends the idle -/

@[simp] theorem State.seeEdge_power (fell : Bool) (s : State) : (s.seeEdge fell).power = s.power := rfl
@[simp] theorem State.seeEdge_fuses (fell : Bool) (s : State) : (s.seeEdge fell).fuses = s.fuses := rfl
@[simp] theorem State.seeEdge_tag (fell : Bool) (s : State) : (s.seeEdge fell).tag = s.tag := rfl
@[simp] theorem State.seeEdge_pins (fell : Bool) (s : State) : (s.seeEdge fell).pins = s.pins := rfl
@[simp] theorem State.seeEdge_straps (fell : Bool) (s : State) : (s.seeEdge fell).straps = s.straps := rfl
@[simp] theorem State.seeEdge_config (fell : Bool) (s : State) : (s.seeEdge fell).config = s.config := rfl
@[simp] theorem State.seeEdge_scan (fell : Bool) (s : State) : (s.seeEdge fell).scan = s.scan := rfl
@[simp] theorem State.seeEdge_store (fell : Bool) (s : State) : (s.seeEdge fell).store = s.store := rfl
@[simp] theorem State.seeEdge_feed (fell : Bool) (s : State) : (s.seeEdge fell).feed = s.feed := rfl
@[simp] theorem State.seeEdge_line (fell : Bool) (s : State) : (s.seeEdge fell).line = s.line := rfl
@[simp] theorem State.seeEdge_table (fell : Bool) (s : State) : (s.seeEdge fell).table = s.table := rfl
@[simp] theorem State.seeEdge_commit (fell : Bool) (s : State) : (s.seeEdge fell).commit = s.commit := rfl
@[simp] theorem State.seeEdge_bay (fell : Bool) (s : State) : (s.seeEdge fell).bay = s.bay := rfl
@[simp] theorem State.seeEdge_stat (fell : Bool) (s : State) : (s.seeEdge fell).stat = s.stat := rfl
@[simp] theorem State.seeEdge_choices (fell : Bool) (s : State) : (s.seeEdge fell).choices = s.choices := rfl
@[simp] theorem State.seeEdge_pending (fell : Bool) (s : State) : (s.seeEdge fell).pending = s.pending := rfl
@[simp] theorem State.seeEdge_wire_tx (fell : Bool) (s : State) : (s.seeEdge fell).wire.tx = s.wire.tx := rfl
@[simp] theorem State.seeEdge_wire_idle (fell : Bool) (s : State) : (s.seeEdge fell).wire.idle = (s.wire.idle && !fell) := rfl

/-! ### One conversion passes -/

@[simp] theorem State.tick_power (s : State) : s.tick.power = s.power := rfl
@[simp] theorem State.tick_fuses (s : State) : s.tick.fuses = s.fuses := rfl
@[simp] theorem State.tick_tag (s : State) : s.tick.tag = s.tag := rfl
@[simp] theorem State.tick_pins (s : State) : s.tick.pins = s.pins := rfl
@[simp] theorem State.tick_wire (s : State) : s.tick.wire = s.wire := rfl
@[simp] theorem State.tick_straps (s : State) : s.tick.straps = s.straps := rfl
@[simp] theorem State.tick_config (s : State) : s.tick.config = s.config := rfl
@[simp] theorem State.tick_scan (s : State) : s.tick.scan = s.scan := rfl
@[simp] theorem State.tick_store (s : State) : s.tick.store = s.store := rfl
@[simp] theorem State.tick_choices (s : State) : s.tick.choices = s.choices := rfl
@[simp] theorem State.tick_pending (s : State) : s.tick.pending = s.pending := rfl
@[simp] theorem State.tick_feed_droop (s : State) : s.tick.feed.droop = s.feed.droop := rfl
@[simp] theorem State.tick_feed_tracking (s : State) : s.tick.feed.tracking = s.feed.tracking := rfl
@[simp] theorem State.tick_feed_stuck (s : State) : s.tick.feed.stuck = s.feed.stuck := rfl
@[simp] theorem State.tick_feed_stage (s : State) : s.tick.feed.stage = s.feed.stage := rfl
@[simp] theorem State.tick_line_link (s : State) : s.tick.line.link = s.line.link := rfl
@[simp] theorem State.tick_line_admitted (s : State) : s.tick.line.admitted = s.line.admitted := rfl
@[simp] theorem State.tick_line_queue (s : State) : s.tick.line.queue = s.line.queue := rfl
@[simp] theorem State.tick_line_vetoRun (s : State) : s.tick.line.vetoRun = s.line.vetoRun := rfl
@[simp] theorem State.tick_line_lastAnnounced (s : State) : s.tick.line.lastAnnounced = s.line.lastAnnounced := rfl
@[simp] theorem State.tick_line_isolated (s : State) : s.tick.line.isolated = s.line.isolated := rfl
@[simp] theorem State.tick_commit_target (s : State) : s.tick.commit.target = s.commit.target := rfl
@[simp] theorem State.tick_commit_limit (s : State) : s.tick.commit.limit = s.commit.limit := rfl
@[simp] theorem State.tick_bay_phase (s : State) : s.tick.bay.phase = s.bay.phase := rfl
@[simp] theorem State.tick_bay_localDemand (s : State) : s.tick.bay.localDemand = s.bay.localDemand := rfl
@[simp] theorem State.tick_bay_taperValue (s : State) : s.tick.bay.taperValue = s.bay.taperValue := rfl
@[simp] theorem State.tick_bay_termCount (s : State) : s.tick.bay.termCount = s.bay.termCount := rfl
@[simp] theorem State.tick_bay_prevPid (s : State) : s.tick.bay.prevPid = s.bay.prevPid := rfl
@[simp] theorem State.tick_bay_foldback (s : State) : s.tick.bay.foldback = s.bay.foldback := rfl

/-! ### Power-on values -/

@[simp] theorem State.powerOnValues_fuses (power : Power) (tag : Tag) (s : State) : (s.powerOnValues power tag).fuses = s.fuses := rfl
@[simp] theorem State.powerOnValues_pins (power : Power) (tag : Tag) (s : State) : (s.powerOnValues power tag).pins = s.pins := rfl
@[simp] theorem State.powerOnValues_choices (power : Power) (tag : Tag) (s : State) : (s.powerOnValues power tag).choices = s.choices :=
  rfl
@[simp] theorem State.powerOnValues_pending (power : Power) (tag : Tag) (s : State) : (s.powerOnValues power tag).pending = s.pending :=
  rfl
@[simp] theorem State.powerOnValues_wire (power : Power) (tag : Tag) (s : State) :
    (s.powerOnValues power tag).wire = { idle := false, tx := none } := rfl

/-! ### What the plain operations set -/

@[simp] theorem State.lineEnds_wire (s : State) : s.lineEnds.wire = { idle := false, tx := none } := rfl
@[simp] theorem State.requestDemand_line_queue_demand (fromCensus : Bool) (s : State) :
    (s.requestDemand fromCensus).line.queue.demand = s.line.queue.demand.request fromCensus := rfl
@[simp] theorem State.putCommit_commit (c : CommitUnit) (s : State) : (s.putCommit c).commit = c := by
  unfold State.putCommit; dsimp only; split <;> simp
@[simp] theorem State.zeroCommit_commit (s : State) : s.zeroCommit.commit = { target := 0, limit := 0, hold := .idle } := by
  simp [State.zeroCommit]
@[simp] theorem State.recompute_table (before : List Row) (s : State) :
    (s.recompute before).table = recomputeRows s.table s.feed.stage := by simp [State.recompute]
@[simp] theorem State.putStage_feed_stage (stage : Nat) (s : State) : (s.putStage stage).feed.stage = stage := by
  unfold State.putStage; split <;> simp_all
@[simp] theorem State.enterHailing_line_link (s : State) : s.enterHailing.line.link = .hailing := by simp [State.enterHailing]
@[simp] theorem State.hailFromDown_line_link (s : State) : s.hailFromDown.line.link = .hailing := by simp [State.hailFromDown]
@[simp] theorem State.hailFromMute_line_link (s : State) : s.hailFromMute.line.link = .hailing := by simp [State.hailFromMute]
@[simp] theorem State.enterDown_line_link (s : State) : s.enterDown.line.link = .down := by simp [State.enterDown]
@[simp] theorem State.enterLeaving_line_link (s : State) : s.enterLeaving.line.link = .leaving := by simp [State.enterLeaving]
@[simp] theorem State.enterMute_line_link (s : State) : s.enterMute.line.link = .mute := by simp [State.enterMute]
@[simp] theorem State.enterBarred_line_link (s : State) : s.enterBarred.line.link = .barred := by simp [State.enterBarred]
@[simp] theorem State.enterHailing_table (s : State) : s.enterHailing.table = [] := by simp [State.enterHailing]
@[simp] theorem State.enterDown_table (s : State) : s.enterDown.table = [] := by simp [State.enterDown]
@[simp] theorem State.enterMute_table (s : State) : s.enterMute.table = [] := by simp [State.enterMute]
@[simp] theorem State.enterBarred_table (s : State) : s.enterBarred.table = [] := by simp [State.enterBarred]
@[simp] theorem State.tick_table (s : State) : s.tick.table = s.table.map ageRow := rfl
@[simp] theorem State.powerOnValues_power (power : Power) (tag : Tag) (s : State) : (s.powerOnValues power tag).power = power := rfl
@[simp] theorem State.powerOnValues_tag (power : Power) (tag : Tag) (s : State) : (s.powerOnValues power tag).tag = tag := rfl
@[simp] theorem State.powerOnValues_line (power : Power) (tag : Tag) (s : State) :
    (s.powerOnValues power tag).line = .atPowerOn := rfl
@[simp] theorem State.powerOnValues_feed (power : Power) (tag : Tag) (s : State) :
    (s.powerOnValues power tag).feed = .atPowerOn := rfl
@[simp] theorem State.powerOnValues_table (power : Power) (tag : Tag) (s : State) : (s.powerOnValues power tag).table = [] := rfl
@[simp] theorem State.powerOnValues_commit (power : Power) (tag : Tag) (s : State) :
    (s.powerOnValues power tag).commit = .atPowerOn := rfl
@[simp] theorem State.powerOnValues_bay (power : Power) (tag : Tag) (s : State) :
    (s.powerOnValues power tag).bay = .atPowerOn := rfl

end Sys2Proof.Machine
end

