-- ==== Sys2Proof/Laws/Ops.lean ====
section
/-! SUPPORT. What each shared operation can do, said once in the terms of the statements (Safety.lean): the end of every step, a limit passed
to the bay, a recompute, a change of one row or of the stage, the entries of the link states. Later proofs cite these and unfold none of
the operations. -/

namespace Sys2Proof.Machine

/-! ### The end of every step -/

/-- The pattern chosen by the conditions of R157 in their order is the one that patternFor gives. -/
theorem chosenPattern_eq (u : State) : chosenPattern u = patternFor u.line.link u.bay.phase u.throttled := by
  unfold chosenPattern patternFor State.throttled bayThrottled
  rcases h : u.bay.phase with _ | _ | c | _ | c | c <;> rcases hl : u.line.link <;> simp [Phase.name] <;>
    (try rcases c with _ | _ | _) <;> simp_all

theorem quietSteps_eq (t : Timer) : quietSteps t = t.hundredMs := by cases t <;> rfl

theorem firstInterval_eq (p : Pattern) : (statAt p 0) = { pattern := p, position := 0, left := firstInterval p } := by
  cases p <;> rfl

/-- A frame begins or nothing changes (R61, R81). -/
theorem beginFrame_offered {n : Nat} {u : State} (hn : u.ownNumber = some n) (hi : u.wire.idle = true) (hl : u.takesLine = true)
    (ht : u.wire.tx = none) : FrameOffered n u u.beginFrame := by
  unfold FrameOffered State.beginFrame
  simp only [hn, hi, hl, ht, and_self, ite_true]
  unfold State.offer
  by_cases h1 : u.line.queue.leave = .waiting
  · simp [h1, State.buildLeave]
  by_cases h2 : u.line.queue.join = .waiting
  · simp [h1, h2, State.buildJoin]
  by_cases h3 : u.line.queue.demand = .waiting
  · simp [h1, h2, h3, State.buildDemand, quietSteps_eq, demandMode]
  rcases h4 : u.line.queue.reports with _ | ⟨r, rs⟩
  · simp [h1, h2, h3, h4]
  · simp [h1, h2, h3, h4]

theorem beginFrame_none {u : State} (h : u.ownNumber = none ∨ u.wire.idle = false ∨ u.takesLine = false ∨ u.wire.tx ≠ none) :
    u.beginFrame = u := by
  unfold State.beginFrame
  cases hn : u.ownNumber with
  | none => rfl
  | some n =>
    simp only [hn, reduceCtorEq, false_or] at h
    rcases h with h | h | h <;> simp [h]

/-- The end of every step, said whole. -/
theorem settle_settled (u : State) : Settled u u.settle := by
  have hb : u.beginFrame = { u with wire := u.beginFrame.wire, line.queue := u.beginFrame.line.queue } := by
    unfold State.beginFrame; repeat' split
    all_goals rfl
  have hw : u.settle.wire = u.beginFrame.wire := by simp [State.settle]
  have hq : u.settle.line.queue = u.beginFrame.line.queue := by simp [State.settle]
  have hc : chosenPattern u = patternFor u.beginFrame.line.link u.beginFrame.bay.phase u.beginFrame.throttled := by
    rw [chosenPattern_eq]; simp [State.throttled, State.cfg]
  refine ⟨?_, ⟨fun h => ?_, fun h => ?_⟩, fun n hn hi hl ht => ?_, fun h => ?_⟩
  · have : u.settle = { u.beginFrame with stat := u.settle.stat } := by
      unfold State.settle State.selectPattern; dsimp only; split <;> rfl
    rw [this, hb]
  · unfold State.settle State.selectPattern; dsimp only
    rw [← hc]; simp [h]
  · unfold State.settle State.selectPattern; dsimp only
    rw [← hc]; simp [h, firstInterval_eq]
  · have := beginFrame_offered hn hi hl ht
    unfold FrameOffered at this ⊢
    rw [hw, hq]; exact this
  · rw [hw, hq, beginFrame_none h]; exact ⟨rfl, rfl⟩

/-! ### The bay under a limit -/

/-- The bay invariant reads the configuration, the bay and the limit alone. -/
theorem BayInv.congr {s t : State} (h : BayInv s) (hc : t.cfg = s.cfg) (hb : t.bay = s.bay) (hl : t.commit.limit = s.commit.limit) :
    BayInv t := by
  unfold BayInv at *; rw [hc, hb, hl]; exact h

theorem demandChangeDue_iff (own last : Nat) :
    demandChangeDue own last = true ↔
      (4 ≤ ((own : Int) - last).natAbs ∨ (own = 0 ∧ 0 < last) ∨ (0 < own ∧ last = 0)) := by
  unfold demandChangeDue; simp only [decide_eq_true_eq]; omega

/-- What putBay leaves (R131, R133, R68), for any bay. -/
theorem putBay_eq (b : BayController) (s : State) :
    s.putBay b = withBay ((b.followLimit s.commit.limit (fullAtTimeout s.cfg s.store)).demanding s.cfg) s := by
  unfold State.putBay withBay demandSlotAfter BayController.demanding
  dsimp only
  have hr : ∀ d : DemandSlot, d = .empty → d.request false = .waiting := by rintro _ rfl; rfl
  split
  · rename_i h; simp [h]
  · rename_i h
    unfold State.judgeDemand State.requestDemand
    simp only [demandChangeDue_iff]
    split
    · rename_i h2
      rw [if_pos ⟨h, h2⟩]; simp [hr _ h2.2.2.1]
    · rename_i h2
      rw [if_neg (fun h3 => h2 h3.2)]

theorem phaseDemand_congr (c : ConfigRecord) {b b' : BayController} (hp : b'.phase = b.phase) (hv : b'.taperValue = b.taperValue)
    (hf : b'.foldback = b.foldback) : phaseDemand c b' = phaseDemand c b := by
  unfold phaseDemand chargeDemand; rw [hp, hv, hf]

/-- A bay that stands in its invariant meets a limit as R131 and R148 say. -/
theorem followLimit_eq {s : State} (h : BayInv s) (limit : Nat) (full : Bool) :
    (s.bay.followLimit limit full).demanding s.cfg = bayUnder limit full s.bay := by
  obtain ⟨hd, -, -, -, -, -, -, -, -, hm⟩ := h
  have hd' : phaseDemand s.cfg s.bay = s.bay.localDemand := hd.symm
  unfold BayController.followLimit bayUnder heldBay BayController.demanding
  generalize s.cfg = c at hd' ⊢
  generalize s.bay = b at hm hd' ⊢
  clear hd
  rcases b with ⟨ph, ld, tv, tc, pp, fb, ⟨ps, pr⟩, ⟨cs, cr⟩⟩
  rcases ph with _ | _ | p | _ | p | p
  · simpa using hd'
  · simpa using hd'
  · by_cases hl : limit < 2 <;> cases p <;> simp only [creditsMatch] at hm <;> obtain ⟨rfl, rfl⟩ := hm <;>
      simp only [hl, ite_true, ite_false] <;> clear hl <;>
      simp_all [Credit.pause, phaseDemand, chargeDemand]
  · simpa using hd'
  · by_cases hl : limit < 2 <;> cases p <;> simp only [creditsMatch] at hm <;> obtain ⟨rfl, rfl⟩ := hm <;>
      simp only [hl, ite_true, ite_false] <;> clear hl <;> by_cases h1 : prechargeSetting ≤ ps <;> by_cases h2 : chargeSetting ≤ cs <;>
      simp only [phaseDemand, chargeDemand] at hd' <;>
      simp [BayController.returnTo, Credit.resume, phaseDemand, chargeDemand, BayController.enterFault, Credit.stop, h1, h2, hd']
  · simpa using hd'

/-- A limit the bay already knows changes nothing in it. -/
theorem bayUnder_same {s : State} (h : BayInv s) (full : Bool) : bayUnder s.commit.limit full s.bay = s.bay := by
  obtain ⟨-, hc, hh, -⟩ := h
  unfold bayUnder
  rcases hph : s.bay.phase with _ | _ | p | _ | p | p <;> simp only
  · have := hc p hph; simp [Nat.not_lt.mpr this]
  · have := hh p hph; cases p <;> simp [this]

theorem withBay_self (s : State) : withBay s.bay s = s := by simp [withBay, demandSlotAfter]

/-- The commit unit takes new values and passes its limit on (R56). -/
theorem putCommit_eq {s : State} (h : BayInv s) (c : CommitUnit) : s.putCommit c = withCommit c s := by
  unfold State.putCommit withCommit
  dsimp only
  split
  · rename_i hl
    rw [hl, bayUnder_same h]
    have := withBay_self { s with commit := c }
    simp only at this; exact this.symm
  · rw [putBay_eq]
    have hf := followLimit_eq h c.limit (fullAtTimeout s.cfg s.store)
    show withBay ((s.bay.followLimit c.limit (fullAtTimeout s.cfg s.store)).demanding s.cfg) _ = _
    rw [hf]

/-- T and L become 0 (R51). -/
theorem zeroCommit_eq {s : State} (h : BayInv s) : s.zeroCommit = withNoLimit s := by
  unfold State.zeroCommit
  rw [putCommit_eq h]
  unfold withCommit withNoLimit withBay
  have hz : ∀ f, bayUnder 0 f s.bay = heldBay s.bay := by
    intro f; unfold bayUnder heldBay
    rcases s.bay.phase with _ | _ | p | _ | p | p <;> simp
    cases p <;> simp
  rw [hz]
  have hd : (heldBay s.bay).localDemand = s.bay.localDemand := by
    unfold heldBay; split <;> rfl
  simp [demandSlotAfter, hd]

/-! ### A recompute -/

theorem lowering_iff (before after : List Row) : isLowering before after = true ↔ Lowering before after := by
  unfold isLowering Lowering loweredIn
  simp only [List.any_eq_true, Bool.and_eq_true, decide_eq_true_eq, beq_iff_eq]
  constructor
  · rintro ⟨a, ha, hl, b, hb, ⟨h1, h2⟩, h3⟩; exact ⟨a, ha, hl, b, hb, h1, h2, h3⟩
  · rintro ⟨a, ha, hl, b, hb, h1, h2, h3⟩; exact ⟨a, ha, hl, b, hb, ⟨h1, h2⟩, h3⟩

theorem counted_iff (l : LinkState) : LinkState.counted l = true ↔ l = .census ∨ l = .on := by cases l <;> simp [LinkState.counted]

theorem ownTarget_eq (s : State) : s.ownTarget = targetOf s s.table := by
  unfold State.ownTarget targetOf State.ownRow
  simp only [counted_iff]
  split
  · cases s.ownNumber with
    | none => rfl
    | some n => simp only [Option.bind]; cases findRow n s.table <;> rfl
  · rfl

theorem holdAfter_spec (hold : Timer) (low high : Bool) (target limit : Nat) :
    HoldAfterRecompute (low = true) (high = true) target limit hold (holdAfter hold low high target limit) := by
  unfold HoldAfterRecompute holdAfter
  cases hold with
  | idle =>
    refine ⟨fun _ => ⟨fun h => ?_, fun h => ?_⟩, fun left h => by cases h⟩
    · simp [h.1, h.2, Timer.start]
    · have : ¬(limit < target ∧ high = true) := fun h' => h ⟨h'.2, h'.1⟩
      simp only [if_neg this]
  | running left => cases low <;> simp [Timer.start]

/-- A recompute, said whole (R25, R38, R43 to R46). -/
theorem recompute_recomputed {s : State} (h : BayInv s) (before : List Row) : Recomputed before s (s.recompute before) := by
  unfold State.recompute State.handOver Recomputed
  dsimp only
  rw [ownTarget_eq]
  have hB : BayInv { s with table := recomputeRows s.table s.feed.stage } := h.congr rfl rfl rfl
  rw [putCommit_eq hB]
  refine ⟨_, ?_, rfl⟩
  have := holdAfter_spec s.commit.hold (isLowering before (recomputeRows s.table s.feed.stage)) s.pins.almHigh
    (targetOf s (recomputeRows s.table s.feed.stage))
    (min s.commit.limit (targetOf s (recomputeRows s.table s.feed.stage)))
  rw [lowering_iff] at this
  exact this

/-- One row changes (R16). -/
theorem putRowOf_changed {s : State} (h : BayInv s) (n : Nat) (new : Option Row) : RowChanged n new s (s.putRowOf n new) := by
  unfold State.putRowOf RowChanged
  dsimp only
  split
  · exact recompute_recomputed (s := { s with table := putRow n new s.table }) (h.congr rfl rfl rfl) _
  · rfl

/-- The cap stage takes a value (R25). -/
theorem putStage_changed {s : State} (h : BayInv s) (k : Nat) : StageChanged k s (s.putStage k) := by
  unfold State.putStage StageChanged
  split
  · rfl
  · exact recompute_recomputed (s := { s with feed.stage := k }) (h.congr rfl rfl rfl) _

/-! ### Entering a link state -/

theorem enterHailing_eq {s : State} (h : BayInv s) : s.enterHailing = hailingState s := by
  unfold State.enterHailing hailingState
  refine (zeroCommit_eq ?_).trans ?_
  · exact h.congr rfl rfl rfl
  cases hj : s.line.queue.join <;> simp [Slot.request]

theorem hailFromDown_eq {s : State} (h : BayInv s) : s.hailFromDown = hailingFromDown s := by
  unfold State.hailFromDown hailingFromDown
  refine (enterHailing_eq ?_).trans rfl
  exact h.congr rfl rfl rfl

theorem hailFromMute_eq {s : State} (h : BayInv s) : s.hailFromMute = hailingState { s with line.admitted := false } := by
  unfold State.hailFromMute
  refine enterHailing_eq ?_
  exact h.congr rfl rfl rfl

theorem enterDown_eq {s : State} (h : BayInv s) : s.enterDown = downState s := by
  unfold State.enterDown downState
  refine (zeroCommit_eq ?_).trans rfl
  exact h.congr rfl rfl rfl

theorem enterMute_eq {s : State} (h : BayInv s) : s.enterMute = muteState s := by
  unfold State.enterMute muteState
  refine (zeroCommit_eq ?_).trans rfl
  exact h.congr rfl rfl rfl

theorem enterBarred_eq {s : State} (h : BayInv s) : s.enterBarred = barredState s := by
  unfold State.enterBarred barredState
  refine (zeroCommit_eq ?_).trans rfl
  exact h.congr rfl rfl rfl

/-- The bay stands in its invariant after its limit is taken away. -/
theorem withNoLimit_bayInv {s : State} (h : BayInv s) : BayInv (withNoLimit s) := by
  obtain ⟨hd, -, -, ht, hv, hp0, hp1, hc0, hc1, hm⟩ := h
  have hcfg : (withNoLimit s).cfg = s.cfg := rfl
  have hbay : (withNoLimit s).bay = heldBay s.bay := rfl
  have hlim : (withNoLimit s).commit.limit = 0 := rfl
  unfold BayInv
  rw [hcfg, hbay, hlim]
  generalize s.cfg = c at hd ⊢
  generalize s.bay = b at hd ht hv hp0 hp1 hc0 hc1 hm ⊢
  clear hcfg hbay hlim
  rcases b with ⟨ph, ld, tv, tc, pp, fb, ⟨ps, pr⟩, ⟨cs, cr⟩⟩
  rcases ph with _ | _ | p | _ | p | p
  · exact ⟨hd, by simp [heldBay], by simp [heldBay], ht, hv, hp0, hp1, hc0, hc1, hm⟩
  · exact ⟨hd, by simp [heldBay], by simp [heldBay], ht, hv, hp0, hp1, hc0, hc1, hm⟩
  · cases p <;> simp only [creditsMatch] at hm <;> obtain ⟨rfl, rfl⟩ := hm <;>
      exact ⟨hd, by simp [heldBay], by simp [heldBay], ht, hv, hp0, hp1, hc0, hc1, by simp [heldBay, creditsMatch]⟩
  · exact ⟨hd, by simp [heldBay], by simp [heldBay], ht, hv, hp0, hp1, hc0, hc1, hm⟩
  · exact ⟨hd, by simp [heldBay], by simp [heldBay], ht, hv, hp0, hp1, hc0, hc1, hm⟩
  · exact ⟨hd, by simp [heldBay], by simp [heldBay], ht, hv, hp0, hp1, hc0, hc1, hm⟩

theorem downState_bayInv {s : State} (h : BayInv s) : BayInv (downState s) := by
  unfold downState
  refine withNoLimit_bayInv ?_
  exact h.congr rfl rfl rfl

theorem endLeaving_eq {s : State} (h : BayInv s) : s.endLeaving = leftState s := by
  unfold State.endLeaving leftState
  dsimp only
  rw [enterDown_eq h, hailFromDown_eq (downState_bayInv h)]
  rfl

/-! ### Frames -/

/-- An accepted frame, this station taking part in the line (R74, R92, R93). -/
theorem acceptFrame_accepted {s : State} {f : Frame} (h : Accepts s f) (deliver : Bool → State → State) :
    (IsOwn s f → s.acceptFrame f deliver = deliver true (afterAccept true s)) ∧
    (¬IsOwn s f → s.ownNumber = some f.sender.toNat → s.acceptFrame f deliver = (afterAccept false s).enterBarred) ∧
    (FromPeer s f → s.acceptFrame f deliver = deliver false (afterAccept false s)) := by
  obtain ⟨h1, h2⟩ := h
  unfold State.acceptFrame State.isOwnSender IsOwn FromPeer afterAccept State.lineEnds
  refine ⟨fun h => ?_, fun h hn => ?_, fun ⟨h, hn⟩ => ?_⟩ <;> simp [h1, h2, h]
  · intro hn'; exact absurd hn hn'
  · rw [if_neg hn, beq_eq_false_iff_ne.mpr h]

/-- A frame that this station does not take part in only ends on the line (R64, R97). -/
theorem acceptFrame_unheard {s : State} (f : Frame) (deliver : Bool → State → State) (h : s.takesLine = false) :
    s.acceptFrame f deliver = { s with wire := { idle := false, tx := none } } := by
  simp [State.acceptFrame, h, State.lineEnds]

/-- Adoption (R108): a stage above the own one becomes the own one with its quiet remaining, and any other leaves all as it is. -/
theorem adopt_adopted {s : State} (h : BayInv s) (b : DemandBody) :
    (b.stage.toNat ≤ s.feed.stage → s.adopt b = s) ∧
    (s.feed.stage < b.stage.toNat →
      StageChanged b.stage.toNat { s with feed.quiet := .running (ms (100 * b.quiet.toNat)) } (s.adopt b)) := by
  unfold State.adopt
  refine ⟨fun h1 => if_neg (Nat.not_lt.mpr h1), fun h1 => ?_⟩
  rw [if_pos h1]
  refine putStage_changed ?_ _
  exact h.congr rfl rfl rfl

/-- The timeouts of the credits (R143, R144): FAULT with the cause, the credit at its setting, both stopped. -/
theorem timeouts_eq (full : Bool) (b : BayController) :
    b.prechargeTimeout = { b with
      phase := .fault .prechargeTimeout, termCount := 0
      precharge := { seconds := prechargeSetting, run := .stopped }, charge := b.charge.stop } ∧
    b.chargeTimeout full = { b with
      phase := .fault (.chargeTimeout full), termCount := 0
      precharge := b.precharge.stop, charge := { seconds := chargeSetting, run := .stopped } } := ⟨rfl, rfl⟩

/-! ### What has run out -/

/-- A timer has run out exactly with nothing left (log 3). -/
theorem due_iff (t : Timer) : t.due = true ↔ t = .running 0 := by cases t <;> simp [Timer.due]

/-- A timer that a record starts has run out with nothing left, or by the end of the conversion under way (log 3). -/
theorem dueByEnd_iff (t : Timer) : t.dueByEnd = true ↔ t = .running 0 ∨ t = .running 1 := by
  cases t <;> simp [Timer.dueByEnd]; omega

theorem creditDue_iff (setting rate : Rat) (c : Credit) :
    c.due setting rate = true ↔ c.run = .running ∧ setting ≤ c.seconds + rate * conversionSeconds := by
  simp [Credit.due]

theorem silenceDue_iff (r : Row) : r.silenceDue = true ↔ (r.name = .joining ∨ r.name = .active) ∧ ms silenceMs ≤ r.age := by
  unfold Row.silenceDue Row.name; split <;> simp_all

theorem silentReleaseDue_iff (r : Row) : r.silentReleaseDue = true ↔ r.name = .silent ∧ ms releaseMs ≤ r.age := by
  unfold Row.silentReleaseDue Row.name; split <;> simp_all

theorem disputedReleaseDue_iff (r : Row) :
    r.disputedReleaseDue = true ↔ ∃ g d, r.status = .disputed g d ∧ ms releaseMs ≤ d := by
  unfold Row.disputedReleaseDue; split <;> simp_all

/-- A live row falls SILENT with its grant frozen and nothing else changed (R12). -/
theorem silenceRow_live {r : Row} (h : r.name = .joining ∨ r.name = .active) :
    silenceRow r = { r with status := .silent r.grant } := by
  unfold silenceRow Row.grant; unfold Row.name at h; split <;> simp_all

/-! ### What a receiver finds and what a party drives -/

/-- The k-th data cell of a reception, by its place in the list that a receiver takes (R80, R88). -/
theorem dataCells_get (cells : List CellSeen) (k : Nat) (c : CellSeen) :
    (dataCells cells)[k]? = some c ↔ cells[k]? = some c ∧ ∀ j < k, ∀ d, cells[j]? = some d → d.gap ≤ 11000 := by
  induction cells generalizing k with
  | nil => simp [dataCells]
  | cons a cs ih =>
    unfold dataCells
    cases k with
    | zero => split <;> simp
    | succ k =>
      split
      · rename_i h
        simp only [List.getElem?_cons_succ, List.getElem?_nil, reduceCtorEq, false_iff, not_and]
        intro _ h2
        have := h2 0 (Nat.succ_pos k) a rfl
        omega
      · rename_i h
        simp only [List.getElem?_cons_succ, ih]
        refine and_congr_right fun _ => ⟨fun h2 j hj d hd => ?_, fun h2 j hj d hd => h2 (j + 1) (by omega) d (by simpa using hd)⟩
        cases j with
        | zero => simp at hd; subst hd; omega
        | succ j => exact h2 j (by omega) d (by simpa using hd)

theorem isDataCell_iff (rx : Reception) (k : Nat) (c : CellSeen) : IsDataCell rx k c ↔ (dataCells rx.cells)[k]? = some c :=
  (dataCells_get rx.cells k c).symm

/-- A fault of cell timing is a cell of illegal width, or an edge less than 9 microseconds after the one before (R80, R89). -/
theorem timingFault_iff (cells : List CellSeen) :
    timingFault cells = true ↔ ∃ k c, cells[k]? = some c ∧
      ((lowRunIsOne c.low = false ∧ lowRunIsZero c.low = false) ∨ ((cells[k + 1]?).isSome = true ∧ c.gap < 9000)) := by
  induction cells with
  | nil => simp [timingFault]
  | cons a cs ih =>
    have h1 : timingFault (a :: cs) = true ↔ (cellFault a (!cs.isEmpty) = true ∨ timingFault cs = true) := by
      simp [timingFault]
    rw [h1, ih]
    have ha : cellFault a (!cs.isEmpty) = true ↔
        ((lowRunIsOne a.low = false ∧ lowRunIsZero a.low = false) ∨ ((cs[0]?).isSome = true ∧ a.gap < 9000)) := by
      cases cs <;> simp [cellFault]
    rw [ha]
    constructor
    · rintro (h | ⟨k, c, hk, h⟩)
      · exact ⟨0, a, rfl, by simpa using h⟩
      · exact ⟨k + 1, c, by simpa using hk, by simpa using h⟩
    · rintro ⟨k, c, hk, h⟩
      cases k with
      | zero => left; simp at hk; subst hk; simpa using h
      | succ k => right; exact ⟨k, c, by simpa using hk, by simpa using h⟩

/-- The first k cells sent are seen as they were sent, without a fault of timing (R85, R87). -/
def SentWell (sent : List Bool) (seen : List CellSeen) (k : Nat) : Prop :=
  ∀ j < k, ∀ b, sent[j]? = some b → ∃ c, seen[j]? = some c ∧ b = sampleCell c ∧ cellFault c (seen[j + 1]?).isSome = false

theorem sentWell_cons (b : Bool) (bs : List Bool) (c : CellSeen) (cs : List CellSeen) (k : Nat) :
    SentWell (b :: bs) (c :: cs) (k + 1) ↔ (b = sampleCell c ∧ cellFault c (cs[0]?).isSome = false) ∧ SentWell bs cs k := by
  constructor
  · intro h
    refine ⟨?_, fun j hj x hx => ?_⟩
    · obtain ⟨c', h1, h2, h3⟩ := h 0 (Nat.succ_pos k) b rfl
      simp at h1; subst h1; exact ⟨h2, by simpa using h3⟩
    · simpa using h (j + 1) (by omega) x (by simpa using hx)
  · rintro ⟨⟨h1, h2⟩, h⟩ j hj x hx
    cases j with
    | zero => simp at hx; subst hx; exact ⟨c, rfl, h1, by simpa using h2⟩
    | succ j => simpa using h j (by omega) x (by simpa using hx)

theorem sentWell_nil (b : Bool) (bs : List Bool) (k : Nat) : ¬SentWell (b :: bs) [] (k + 1) := by
  intro h; obtain ⟨c, h1, -⟩ := h 0 (Nat.succ_pos k) b rfl; simp at h1

/-- A sender has lost where the first cell that it does not see as sent is a 1 sampled as a 0 (R85). -/
theorem contest_lost_iff (sent : List Bool) (seen : List CellSeen) :
    contest sent seen = .lost ↔ ∃ k, SentWell sent seen k ∧ sent[k]? = some true ∧ ∃ c, seen[k]? = some c ∧ sampleCell c = false := by
  induction sent generalizing seen with
  | nil => simp [contest]
  | cons b bs ih =>
    have h0 (cs : List CellSeen) : SentWell (b :: bs) cs 0 := fun j hj => absurd hj (Nat.not_lt_zero j)
    cases seen with
    | nil => simp [contest]
    | cons c cs =>
      have he : (!cs.isEmpty) = (cs[0]?).isSome := by cases cs <;> rfl
      unfold contest
      rw [he]
      constructor
      · intro h
        split at h
        · rename_i h1; simp at h1; exact ⟨0, h0 _, by simp [h1.1], c, rfl, h1.2⟩
        · split at h
          · cases h
          · rename_i h1 h2
            simp at h2
            obtain ⟨k, hk, h3, h4⟩ := (ih cs).1 h
            exact ⟨k + 1, (sentWell_cons b bs c cs k).2 ⟨⟨h2.1, by simpa using h2.2⟩, hk⟩, by simpa using h3, by simpa using h4⟩
      · rintro ⟨k, hk, h3, d, h4, h5⟩
        cases k with
        | zero => simp at h3 h4; subst h3 h4; simp [h5]
        | succ k =>
          obtain ⟨⟨h6, h7⟩, h8⟩ := (sentWell_cons b bs c cs k).1 hk
          rw [if_neg (by subst h6; simp), if_neg (by rw [h7, h6]; simp)]
          exact (ih cs).2 ⟨k, h8, by simpa using h3, d, by simpa using h4, h5⟩

/-- A sender has a bit error where the first cell that it does not see as sent is no loss (R87). -/
theorem contest_bitError_iff (sent : List Bool) (seen : List CellSeen) :
    contest sent seen = .bitError ↔ ∃ k, SentWell sent seen k ∧ ∃ b, sent[k]? = some b ∧
      (seen[k]? = none ∨ ∃ c, seen[k]? = some c ∧
        ((b = false ∧ sampleCell c = true) ∨ cellFault c (seen[k + 1]?).isSome = true) ∧ ¬(b = true ∧ sampleCell c = false)) := by
  induction sent generalizing seen with
  | nil => simp [contest]
  | cons b bs ih =>
    have h0 (cs : List CellSeen) : SentWell (b :: bs) cs 0 := fun j hj => absurd hj (Nat.not_lt_zero j)
    cases seen with
    | nil => simp only [contest, true_iff]; exact ⟨0, h0 _, b, rfl, .inl rfl⟩
    | cons c cs =>
      have he : (!cs.isEmpty) = (cs[0]?).isSome := by cases cs <;> rfl
      unfold contest
      rw [he]
      constructor
      · intro h
        split at h
        · cases h
        · rename_i h1
          split at h
          · rename_i h2
            refine ⟨0, h0 _, b, rfl, .inr ⟨c, rfl, ?_, by simpa using h1⟩⟩
            revert h1 h2
            cases b <;> cases sampleCell c <;> simp
          · rename_i h2
            simp at h2
            obtain ⟨k, hk, x, h3, h4⟩ := (ih cs).1 h
            exact ⟨k + 1, (sentWell_cons b bs c cs k).2 ⟨⟨h2.1, by simpa using h2.2⟩, hk⟩, x, by simpa using h3, by simpa using h4⟩
      · rintro ⟨k, hk, x, h3, h4⟩
        cases k with
        | zero =>
          simp at h3; subst h3
          rcases h4 with h4 | ⟨d, h4, h5, h6⟩
          · simp at h4
          · simp at h4; subst h4
            simp only [List.getElem?_cons_succ] at h5
            rw [if_neg (by simpa using h6)]
            rw [if_pos]
            rcases h5 with ⟨rfl, h5⟩ | h5 <;> simp [h5]
        | succ k =>
          obtain ⟨⟨h6, h7⟩, h8⟩ := (sentWell_cons b bs c cs k).1 hk
          rw [if_neg (by subst h6; simp), if_neg (by rw [h7, h6]; simp)]
          exact (ih cs).2 ⟨k, h8, x, by simpa using h3, by simpa using h4⟩
/-- A fault of timing in the k-th data cell, as the model judges it (R80, R89). -/
theorem faultyCell_iff (rx : Reception) (k : Nat) (c : CellSeen) :
    FaultyCell rx k c ↔ cellFault c ((dataCells rx.cells)[k + 1]?).isSome = true := by
  unfold FaultyCell cellFault lowRunIsOne lowRunIsZero
  simp only [isDataCell_iff]
  cases (dataCells rx.cells)[k + 1]? <;> simp <;> omega

/-- The cells that a sender sees as it sent them, as the model compares them (R85, R87). -/
theorem seesAsSent_iff (f : Frame) (rx : Reception) (k : Nat) :
    SeesAsSent f rx k ↔ SentWell (frameCells f) (dataCells rx.cells) k := by
  unfold SeesAsSent SentWell
  simp only [isDataCell_iff, faultyCell_iff, sampleCell, Bool.not_eq_true]

/-- A sender loses in one of its cells exactly where the model's contest says that it has lost (R85). -/
theorem losesIn_iff (f : Frame) (rx : Reception) :
    (∃ k, LosesIn f rx k) ↔ contest (frameCells f) (dataCells rx.cells) = .lost := by
  simp only [contest_lost_iff, LosesIn, seesAsSent_iff, isDataCell_iff, sampleCell, decide_eq_false_iff_not, Nat.not_lt]

/-- A sender has a bit error in one of its cells exactly where the model's contest says so (R87). -/
theorem errsIn_iff (f : Frame) (rx : Reception) :
    (∃ k, ErrsIn f rx k) ↔ contest (frameCells f) (dataCells rx.cells) = .bitError := by
  have hn (k : Nat) : (¬∃ c, (dataCells rx.cells)[k]? = some c) ↔ (dataCells rx.cells)[k]? = none := by
    cases (dataCells rx.cells)[k]? <;> simp
  simp only [contest_bitError_iff, ErrsIn, seesAsSent_iff, isDataCell_iff, faultyCell_iff, hn, sampleCell, decide_eq_true_eq,
    decide_eq_false_iff_not, Nat.not_lt]
/-- A low run from idle that begins no frame (R80, R81). -/
theorem strayRun_iff (rx : Reception) : strayRun rx = true ↔ 0 < rx.startLow ∧ ¬Begins rx := by
  have hb : beginsFrame rx = true ↔ Begins rx := by simp [beginsFrame, Begins]
  rw [← hb]; simp [strayRun]

/-- Nobody is a sender in a low run that begins no frame (R81). -/
theorem senderFate_strayRun (tx : Option Frame) {rx : Reception} (h : strayRun rx = true) : senderFate tx rx = none := by
  unfold senderFate; rw [h]; split <;> simp

/-- A receiver is no sender, so what it had on the line does not matter (R91). -/
theorem stationVetoes_receiver (tx : Option Frame) {rx : Reception} (h : rx.sending = false) :
    stationVetoes tx rx = (beginsFrame rx && receiverFindsBad rx) := by
  simp [stationVetoes, senderFate, h]

/-- A station that neither takes part in the line nor finishes a frame of its own drives nothing (R79, R96). -/
theorem shlDrives_released {s : State} {rx : Reception} (h : s.takesLine = false) (hr : rx.sending = false ∨ s.wire.tx = none) :
    s.vetoes rx = false ∧ s.shlDrives rx = [] := by
  have hf : senderFate s.wire.tx rx = none := by
    unfold senderFate
    rcases hr with hr | hr
    · simp [hr]
    · rw [hr]; cases rx.sending <;> rfl
  have hv : s.vetoes rx = false := by simp [State.vetoes, h, hf]
  refine ⟨hv, ?_⟩
  unfold State.shlDrives
  simp only [hv, Bool.false_eq_true, ite_false, List.append_nil]
  rcases hr with hr | hr
  · simp [hr]
  · rw [hr]; cases rx.sending <;> rfl

/-! ### The bay invariant under the shared operations -/

/-- What the bay invariant asks of the bay's own fields, whatever the limit. -/
def BaySound (b : BayController) : Prop :=
  b.termCount ≤ 1 ∧ b.taperValue ≤ 160 ∧ 0 ≤ b.precharge.seconds ∧ b.precharge.seconds ≤ prechargeSetting ∧
  0 ≤ b.charge.seconds ∧ b.charge.seconds ≤ chargeSetting ∧ creditsMatch b.phase b.precharge.run b.charge.run

theorem BayInv.sound {s : State} (h : BayInv s) : BaySound s.bay := by
  obtain ⟨-, -, -, h⟩ := h; exact h

/-- HOLD follows the limit from any sound bay (R131, R148). -/
theorem followLimit_sound {b : BayController} (h : BaySound b) (limit : Nat) (full : Bool) :
    BaySound (b.followLimit limit full) ∧
    (∀ p, (b.followLimit limit full).phase = .charging p → 2 ≤ limit) ∧
    (∀ p, (b.followLimit limit full).phase = .hold p → limit < 2) := by
  rcases b with ⟨ph, ld, tv, tc, pp, fb, ⟨ps, pr⟩, ⟨cs, cr⟩⟩
  obtain ⟨ht, hv, hp0, hp1, hc0, hc1, hm⟩ := h
  rcases ph with _ | _ | p | _ | p | p
  · exact ⟨⟨ht, hv, hp0, hp1, hc0, hc1, hm⟩, by simp [BayController.followLimit], by simp [BayController.followLimit]⟩
  · exact ⟨⟨ht, hv, hp0, hp1, hc0, hc1, hm⟩, by simp [BayController.followLimit], by simp [BayController.followLimit]⟩
  · by_cases hl : limit < 2
    · simp only [BayController.followLimit, if_pos hl]
      refine ⟨⟨ht, hv, ?_⟩, by simp, by simp [hl]⟩
      cases p <;> simp only [creditsMatch] at hm <;> obtain ⟨rfl, rfl⟩ := hm <;>
        exact ⟨hp0, hp1, hc0, hc1, by simp [creditsMatch, Credit.pause]⟩
    · simp only [BayController.followLimit, if_neg hl]
      exact ⟨⟨ht, hv, hp0, hp1, hc0, hc1, hm⟩, fun _ _ => Nat.not_lt.mp hl, by simp⟩
  · exact ⟨⟨ht, hv, hp0, hp1, hc0, hc1, hm⟩, by simp [BayController.followLimit], by simp [BayController.followLimit]⟩
  · by_cases hl : limit < 2
    · simp only [BayController.followLimit, if_pos hl]
      exact ⟨⟨ht, hv, hp0, hp1, hc0, hc1, hm⟩, by simp, by simp [hl]⟩
    · have hl2 : 2 ≤ limit := Nat.not_lt.mp hl
      simp only [BayController.followLimit, if_neg hl]
      have ht' : (if p = .taper then 0 else tc) ≤ 1 := by split <;> omega
      cases p <;> simp only [creditsMatch] at hm <;> obtain ⟨rfl, rfl⟩ := hm <;> by_cases h1 : prechargeSetting ≤ ps <;>
        by_cases h2 : chargeSetting ≤ cs <;>
        simp [BayController.returnTo, Credit.resume, BayController.enterFault, Credit.stop, BaySound, creditsMatch, h1, h2, hl2, ht, hv,
          hp0, hp1, hc0, hc1]
  · exact ⟨⟨ht, hv, hp0, hp1, hc0, hc1, hm⟩, by simp [BayController.followLimit], by simp [BayController.followLimit]⟩

/-- A sound bay put into a state stands in its invariant there. -/
theorem putBay_bayInv {b : BayController} (h : BaySound b) (s : State) : BayInv (s.putBay b) := by
  rw [putBay_eq]
  obtain ⟨h1, h2, h3⟩ := followLimit_sound h s.commit.limit (fullAtTimeout s.cfg s.store)
  exact ⟨rfl, h2, h3, h1⟩

theorem putCommit_bayInv {s : State} (h : BayInv s) (c : CommitUnit) : BayInv (s.putCommit c) := by
  unfold State.putCommit
  dsimp only
  split
  · rename_i hl; exact h.congr rfl rfl hl
  · exact putBay_bayInv h.sound _

theorem recompute_bayInv {s : State} (h : BayInv s) (before : List Row) : BayInv (s.recompute before) := by
  unfold State.recompute State.handOver
  refine putCommit_bayInv ?_ _
  exact h.congr rfl rfl rfl

theorem putRowOf_bayInv {s : State} (h : BayInv s) (n : Nat) (new : Option Row) : BayInv (s.putRowOf n new) := by
  unfold State.putRowOf
  dsimp only
  split
  · refine recompute_bayInv ?_ _; exact h.congr rfl rfl rfl
  · exact h.congr rfl rfl rfl

theorem putStage_bayInv {s : State} (h : BayInv s) (k : Nat) : BayInv (s.putStage k) := by
  unfold State.putStage
  split
  · exact h
  · refine recompute_bayInv ?_ _; exact h.congr rfl rfl rfl

/-! ### The end of a cycle -/

/-- The limit windows of R115. -/
theorem outside_iff (s : State) (v : Int) : Outside s v ↔ outsideWindow s.scan.pos.channel s.scan.overvoltage v = true := by
  unfold Outside outsideWindow
  cases s.scan.pos.channel <;> cases s.scan.overvoltage <;> simp

/-- One more sample (R114). -/
theorem sampled_eq (a : Accumulators) (v : Int) : sampled a v = a.add v := by
  unfold sampled Accumulators.add
  split <;> simp_all

/-- A cycle that ends, ends with the record that CycleEnds names, and delivers it (R114 to R119). -/
theorem takeSample_ended {s : State} {input : Int} {fell : Bool} {r : Reading} (h : CycleEnds s input r) :
    (s.seeEdge fell).tick.takeSample (clampSample s.scan.pos.channel input) = (afterCycle fell r s).deliver r := by
  obtain ⟨hend, hlim, hch, hcount, hmin, hmax, havg, hlast⟩ := h
  rw [sampled_eq] at *
  have hr (e : Ending) (he : r.ending = e) :
      (s.scan.acc.add (sampleOf s.scan.pos.channel input)).record s.scan.pos.channel e = r := by
    cases r; simp_all [Accumulators.record, Accumulators.add]
  have hscan : (s.seeEdge fell).tick.scan = s.scan := rfl
  unfold State.takeSample State.endCycle
  simp only [hscan]
  by_cases ho : Outside s (sampleOf s.scan.pos.channel input)
  · have hl := hlim.2 ho
    rw [outside_iff] at ho
    simp only [sampleOf] at ho hr
    simp only [clampSample, ho, ite_true, hr .limit hl]
    rfl
  · have hc : r.ending = .complete := by
      cases h : r.ending
      · rfl
      · exact absurd (hlim.1 h) ho
    have hn := hend.resolve_left ho
    rw [outside_iff] at ho
    simp only [sampleOf] at ho hr hn
    simp only [clampSample, ho, hn, ite_true, hr .complete hc, Bool.false_eq_true, ite_false]
    rfl

end Sys2Proof.Machine
end

