-- ==== Sys2Proof/Laws/PerInstr.lean ====
section
/-! SUPPORT. What every command keeps as syntax, constructor by constructor: the frame it carries, if any, spells 20 + 8 x L data cells for a
payload of L bytes, L at most 15 (R84). -/

namespace Sys2Proof.Laws

open Sys2Proof.Machine

/-- The frame of a well-formed command has the data cells that its length field reckons (R84). -/
def FrameOf.Statement (i : Instr) : Prop :=
  i.wellFormed = true → ∀ f, i.frame? = some f →
    (frameCells f).length = reckonedCells (payloadBytes f.payload).length ∧ (payloadBytes f.payload).length ≤ 15

theorem bitsOf_length {w : Nat} (v : BitVec w) : (bitsOf v).length = w := by simp [bitsOf]

/-- The cells of any frame, by the length of its payload (R84). -/
theorem frameCells_length (f : Frame) : (frameCells f).length = reckonedCells (payloadBytes f.payload).length := by
  have h : ∀ bs : List Byte, (bs.flatMap bitsOf).length = 8 * bs.length := by
    intro bs
    induction bs with
    | nil => rfl
    | cons b bs ih => simp [List.flatMap_cons, bitsOf_length, ih]; omega
  simp [frameCells, bodyCells, bitsOf_length, h, reckonedCells]; omega

/-- A payload in range has at most 15 bytes, the most its length field can say. -/
theorem payloadBytes_length {p : Payload} (h : payloadInRange p = true) : (payloadBytes p).length ≤ 15 := by
  cases p with
  | join b => simp [payloadBytes]
  | demand b => simp [payloadBytes]
  | leave b => simp [payloadBytes]
  | query b => simp [payloadBytes]
  | report b => cases hb : b.content <;> simp [payloadBytes, reportBytes, hb]
  | unassigned k bytes => simpa [payloadBytes, payloadInRange] using h

/-- A frame in range has the cells of its length field. -/
theorem frameOf_inRange {f : Frame} (h : frameInRange f = true) :
    (frameCells f).length = reckonedCells (payloadBytes f.payload).length ∧ (payloadBytes f.payload).length ≤ 15 := by
  simp only [frameInRange, Bool.and_eq_true] at h
  exact ⟨frameCells_length f, payloadBytes_length h.2⟩

theorem frameOf_frame {i : Instr} {f : Frame} (hi : i.wellFormed = true) (hf : i.frame? = some f) :
    (frameCells f).length = reckonedCells (payloadBytes f.payload).length ∧ (payloadBytes f.payload).length ≤ 15 := by
  refine frameOf_inRange ?_
  simp only [Instr.wellFormed, hf, Bool.and_eq_true] at hi
  exact hi.1

theorem FrameOf.powerOn : FrameOf.Statement .powerOn := fun _ _ hf => nomatch hf
theorem FrameOf.conversion (input : ConversionInput) : FrameOf.Statement (.conversion input) := fun _ _ hf => nomatch hf
theorem FrameOf.shlIdle : FrameOf.Statement .shlIdle := fun _ _ hf => nomatch hf
theorem FrameOf.join (sender : Sender) (body : JoinBody) : FrameOf.Statement (.join sender body) := fun hi _ hf => frameOf_frame hi hf
theorem FrameOf.demand (sender : Sender) (body : DemandBody) : FrameOf.Statement (.demand sender body) := fun hi _ hf => frameOf_frame hi hf
theorem FrameOf.leave (sender : Sender) (body : LeaveBody) : FrameOf.Statement (.leave sender body) := fun hi _ hf => frameOf_frame hi hf
theorem FrameOf.query (sender : Sender) (body : QueryBody) : FrameOf.Statement (.query sender body) := fun hi _ hf => frameOf_frame hi hf
theorem FrameOf.report (sender : Sender) (body : ReportBody) : FrameOf.Statement (.report sender body) := fun hi _ hf => frameOf_frame hi hf
theorem FrameOf.unassignedKindFrame (kind : UnassignedKind) (sender : Sender) (bytes : List Byte) : FrameOf.Statement (.unassignedKindFrame kind sender bytes) := fun hi _ hf => frameOf_frame hi hf
theorem FrameOf.frameVetoed (rx : Reception) : FrameOf.Statement (.frameVetoed rx) := fun _ _ hf => nomatch hf
theorem FrameOf.raiseHoldExpiry : FrameOf.Statement .raiseHoldExpiry := fun _ _ hf => nomatch hf
theorem FrameOf.enRise : FrameOf.Statement .enRise := fun _ _ hf => nomatch hf
theorem FrameOf.enFall : FrameOf.Statement .enFall := fun _ _ hf => nomatch hf
theorem FrameOf.almFallingEdge : FrameOf.Statement .almFallingEdge := fun _ _ hf => nomatch hf
theorem FrameOf.almRisingEdge : FrameOf.Statement .almRisingEdge := fun _ _ hf => nomatch hf
theorem FrameOf.almDriveEnd : FrameOf.Statement .almDriveEnd := fun _ _ hf => nomatch hf
theorem FrameOf.rearmTimerExpiry : FrameOf.Statement .rearmTimerExpiry := fun _ _ hf => nomatch hf
theorem FrameOf.lowTimerExpiry : FrameOf.Statement .lowTimerExpiry := fun _ _ hf => nomatch hf
theorem FrameOf.quietTimerExpiry : FrameOf.Statement .quietTimerExpiry := fun _ _ hf => nomatch hf
theorem FrameOf.censusTimerExpiry : FrameOf.Statement .censusTimerExpiry := fun _ _ hf => nomatch hf
theorem FrameOf.heartbeatTimerExpiry : FrameOf.Statement .heartbeatTimerExpiry := fun _ _ hf => nomatch hf
theorem FrameOf.spacingTimerExpiry : FrameOf.Statement .spacingTimerExpiry := fun _ _ hf => nomatch hf
theorem FrameOf.isolationTimerExpiry : FrameOf.Statement .isolationTimerExpiry := fun _ _ hf => nomatch hf
theorem FrameOf.leaveTimerExpiry : FrameOf.Statement .leaveTimerExpiry := fun _ _ hf => nomatch hf
theorem FrameOf.muteTimerExpiry : FrameOf.Statement .muteTimerExpiry := fun _ _ hf => nomatch hf
theorem FrameOf.rowSilence (station : Nat) : FrameOf.Statement (.rowSilence station) := fun _ _ hf => nomatch hf
theorem FrameOf.silentRowRelease (station : Nat) : FrameOf.Statement (.silentRowRelease station) := fun _ _ hf => nomatch hf
theorem FrameOf.disputedRowRelease (station : Nat) : FrameOf.Statement (.disputedRowRelease station) := fun _ _ hf => nomatch hf
theorem FrameOf.prechargeCreditExpiry : FrameOf.Statement .prechargeCreditExpiry := fun _ _ hf => nomatch hf
theorem FrameOf.chargeCreditExpiry : FrameOf.Statement .chargeCreditExpiry := fun _ _ hf => nomatch hf
theorem FrameOf.statPatternStep : FrameOf.Statement .statPatternStep := fun _ _ hf => nomatch hf
theorem FrameOf.supplyMonitorReset : FrameOf.Statement .supplyMonitorReset := fun _ _ hf => nomatch hf
theorem FrameOf.admissionOnQuietLine : FrameOf.Statement .admissionOnQuietLine := fun _ _ hf => nomatch hf

end Sys2Proof.Laws
end

