-- ==== Sys2Proof/Tests/Slice0.lean ====
section
/-! SUPPORT. The model's own tests: ill-formed commands refused by WellFormed, the worked examples of the spec, one step of each command
with the result the rules give, and for every statement a concrete state that meets its hypotheses. -/

namespace Sys2Proof.Tests

set_option Elab.async false

open Sys2Proof Sys2Proof.Machine

/-! ### WellFormed refuses each ill-formed command (12.1, R1, R89, R163) -/

theorem test_sender_zero_refused : (Instr.leave 0 { tag := 0 }).wellFormed = false ∧ (Instr.leave 31 { tag := 0 }).wellFormed = true := by
  decide

def demandBody (demand stage quiet : Byte) : DemandBody :=
  { tag := 0x1234, sb := 17, sc := 3, mode := .active, demand := demand, stage := stage, quiet := quiet }

theorem test_demand_ranges :
    (Instr.demand 4 (demandBody 160 2 100)).wellFormed = true ∧ (Instr.demand 4 (demandBody 161 0 0)).wellFormed = false ∧
    (Instr.demand 4 (demandBody 0 3 0)).wellFormed = false ∧ (Instr.demand 4 (demandBody 0 0 101)).wellFormed = false := by decide

theorem test_query_ranges :
    (Instr.query 20 { target := 16, item := .row, index := 16 }).wellFormed = true ∧
    (Instr.query 20 { target := 0, item := .status, index := 0 }).wellFormed = false ∧
    (Instr.query 20 { target := 17, item := .status, index := 0 }).wellFormed = false ∧
    (Instr.query 20 { target := 1, item := .row, index := 0 }).wellFormed = false ∧
    (Instr.query 20 { target := 1, item := .row, index := 17 }).wellFormed = false ∧
    (Instr.query 20 { target := 1, item := .reading, index := 8 }).wellFormed = false ∧
    (Instr.query 20 { target := 1, item := .status, index := 255 }).wellFormed = true := by decide

def statusRecord (link : LinkState) (limit stage rows : Byte) : ReportRecord :=
  .status 0
    { link := link, phase := .fast, cause := .none, limit := limit, target := 0, lastAnnounced := 0, localDemand := 0, stage := stage
      rowCount := rows, isolated := false, stuck := false, starved := false, throttled := true, foldback := false }

def readingRecord (c : Channel) (count : Byte) (value : Half) : ReportRecord :=
  .reading { channel := c, count := count, ending := .complete, min := value, max := value, average := value, last := value }

theorem test_report_ranges :
    (Instr.report 3 { requester := 9, content := statusRecord .on 160 2 16 }).wellFormed = true ∧
    (Instr.report 3 { requester := 0, content := statusRecord .on 160 2 16 }).wellFormed = false ∧
    (Instr.report 3 { requester := 9, content := statusRecord .leaving 0 0 1 }).wellFormed = false ∧
    (Instr.report 3 { requester := 9, content := statusRecord .on 161 0 1 }).wellFormed = false ∧
    (Instr.report 3 { requester := 9, content := statusRecord .on 0 3 1 }).wellFormed = false ∧
    (Instr.report 3 { requester := 9, content := statusRecord .on 0 0 0 }).wellFormed = false ∧
    (Instr.report 3 { requester := 9, content := readingRecord .diet 8 (valueBits (-40)) }).wellFormed = true ∧
    (Instr.report 3 { requester := 9, content := readingRecord .diet 2 (valueBits (-41)) }).wellFormed = false ∧
    (Instr.report 3 { requester := 9, content := readingRecord .bayv 9 0 }).wellFormed = false ∧
    (Instr.report 3 { requester := 9, content := readingRecord .strapa 8 2401 }).wellFormed = false := by decide

theorem test_other_ranges :
    (Instr.unassignedKindFrame .kind7 1 (List.replicate 15 0)).wellFormed = true ∧
    (Instr.unassignedKindFrame .kind7 1 (List.replicate 16 0)).wellFormed = false ∧
    (Instr.rowSilence 0).wellFormed = false ∧ (Instr.silentRowRelease 17).wellFormed = false ∧
    (Instr.disputedRowRelease 16).wellFormed = true := by decide

/-! ### Worked examples -/

/-- A row of class c, capacity code k. -/
def rowOf (n c k : Nat) (status : RowStatus) (demand : Nat) : Row :=
  { station := n, status := status, tag := 7, sb := BitVec.ofNat 5 (8 * c), sc := BitVec.ofNat 5 k, demand := demand, age := 0 }

def rackOfFour : List Row :=
  [rowOf 1 0 3 (.active 0 false) 80, rowOf 2 1 3 (.active 0 false) 60, rowOf 3 1 3 (.active 0 false) 20, rowOf 4 1 3 (.active 0 false) 40]

def rackOfFive : List Row := rackOfFour ++ [rowOf 5 2 3 (.joining 0 false) 0]

/-- Section 2.9: the starting allocation, the joiner, and both alarms. -/
theorem test_grants_of_section_2_9 :
    (recomputeRows rackOfFour 0).map Row.grant = [80, 30, 20, 30] ∧ (recomputeRows rackOfFive 0).map Row.grant = [80, 28, 20, 28, 4] ∧
    (recomputeRows rackOfFive 1).map Row.grant = [80, 12, 12, 12, 4] ∧ (recomputeRows rackOfFive 2).map Row.grant = [64, 4, 4, 4, 4] ∧
    isLowering (recomputeRows rackOfFour 0) (recomputeRows rackOfFive 0) = true := by decide +kernel

def reserved : List Row :=
  [rowOf 2 0 1 (.active 0 false) 30, rowOf 6 2 1 (.active 0 false) 20, rowOf 8 1 1 (.active 0 false) 40, rowOf 11 1 1 (.silent 28) 36,
    rowOf 14 3 1 (.joining 0 false) 0]

/-- Section 2.10: a reservation, and a starved row at stage 2. -/
theorem test_grants_of_section_2_10 :
    (recomputeRows reserved 1).map ruleOutput = [(2, 20, false), (6, 4, false), (8, 4, false), (11, 0, false), (14, 4, false)] ∧
    (recomputeRows reserved 2).map ruleOutput = [(2, 4, false), (6, 4, false), (8, 4, false), (11, 0, false), (14, 0, true)] ∧
    (recomputeRows (putRow 11 none reserved) 2).map ruleOutput = [(2, 28, false), (6, 4, false), (8, 4, false), (14, 4, false)] := by
  decide +kernel

def oddRows : List Row :=
  [rowOf 1 1 0 (.active 0 false) 20, rowOf 5 1 0 (.active 0 false) 20, rowOf 9 1 0 (.active 0 false) 20, rowOf 12 1 0 (.active 0 false) 6]

/-- Section 2.11: the odd unit goes to the lowest station number. -/
theorem test_grants_of_section_2_11 : (recomputeRows oddRows 0).map Row.grant = [12, 11, 11, 6] := by decide +kernel

def leaveOf7 : Frame := { sender := 7, payload := .leave { tag := 0x51A2 } }

/-- Section 12.4: the 28 bits and the check E3h; section 5.2: 36 data cells. -/
theorem test_check_of_section_12_4 :
    crc (bodyCells leaveOf7) = 0xE3 ∧ (frameCells leaveOf7).length = 36 ∧
    bodyCells leaveOf7 = [false, false, true, false, false, true, true, true, false, false, true, false,
      false, true, false, true, false, false, false, true, true, false, true, false, false, false, true, false] ∧
    readFrame (frameCells leaveOf7) = some leaveOf7 := by decide +kernel

/-- The table of frame durations (section 5.2). -/
theorem test_frame_durations :
    [2, 3, 4, 8, 12, 13, 14].map windowEnd = [402500, 482500, 562500, 882500, 1202500, 1282500, 1362500] ∧
    (payloadBytes (.demand (demandBody 0 0 0))).length = 8 ∧ (reportBytes (statusRecord .on 0 0 1)).length = 12 ∧
    (reportBytes (readingRecord .pid 4 0)).length = 13 := by decide

def strapReading (c : Channel) (mn mx av : Int) : Reading :=
  { channel := c, count := 8, min := mn, max := mx, average := av, last := av, ending := .complete }

/-- Section 10.4: the straps of station 15, and the SB reading that would have been unstable. -/
theorem test_straps_of_section_10_4 :
    loadConfig 9 (some (strapResult (strapReading .strapa 1158 1167 1162))) (some (strapResult (strapReading .strapb 1309 1316 1312)))
      (strapResult (strapReading .strapc 258 266 262)) = { station := some 15, tag := 9, sb := 17, sc := 3 } ∧
    (strapResult (strapReading .strapb 1272 1284 1278)).stable = false ∧ strapCode 2399 = 31 ∧ strapCode 2400 = 31 ∧ strapCode 74 = 0 := by
  decide

def record15 : ConfigRecord := { station := some 15, tag := 0x1234, sb := 17, sc := 3 }

/-- Section 10.4: the derived values of R153. -/
theorem test_derived_of_section_10_4 :
    record15.fast = 40 ∧ record15.prechargeCurrent = 4 ∧ record15.termination = 100 ∧ record15.foldbackCap = 20 ∧
    feedCapacityOf record15.sc = 160 ∧ record15.taperEntry = 4150 ∧ record15.recharge = 4100 ∧ record15.overvoltage = 4300 := by decide

/-! ### A station in ON -/

/-- Station 15 of section 10.4 in ON, alone with the joining station 4, charging in FAST at its full 1,000 mA, at scan position P2. -/
def rack : State :=
  { power := .released, fuses := 0x1234, tag := 0x1234, pins := { en := true, almHigh := true }, wire := { idle := false, tx := none }
    straps := { sa := none, sb := none }, config := some record15
    scan := { pos := .p2, acc := .start, overvoltage := some 4300 }, store := .empty
    feed := { FeedWatch.atPowerOn with tracking := true }
    line := { link := .on, admitted := true, queue := .empty, vetoRun := 0
              timers := { LifeTimers.allIdle with heartbeat := .running 20000, isolation := .running 48000 }
              lastAnnounced := 40, isolated := false }
    table := [rowOf 4 0 3 (.joining 4 false) 0, { rowOf 15 2 3 (.active 40 false) 40 with tag := 0x1234, sb := 17 }]
    commit := { target := 40, limit := 40, hold := .idle }
    bay := { phase := .charging .fast, localDemand := 40, taperValue := 0, termCount := 0, prevPid := some .valid, foldback := false
             precharge := .zero, charge := { seconds := 0, run := .running } }
    stat := statAt .blink1 0, choices := 0, pending := [] }

/-- What a command leaves. -/
def after (c : Instr) (s : State) : State :=
  match exec c s with
  | .next t => t
  | .fault _ => s
  | .refused _ => s

/-- The same bay in TAPER, with a demand of d units under a limit of l. -/
def tapering (d l : Nat) : State :=
  { rack with
    scan.pos := .p4, commit := { target := l, limit := l, hold := .idle }
    bay := { rack.bay with phase := .charging .taper, localDemand := d, taperValue := d } }

def bayiRecord (average : Int) : Reading :=
  { channel := .bayi, count := 8, min := average, max := average, average := average, last := average, ending := .complete }

/-- Section 8.10: records 1, 3, 5 and 6, and the second small record in a row, which ends the charge. -/
theorem test_taper_of_section_8_10 :
    ((tapering 40 40).takeBayi (bayiRecord 920)).bay.localDemand = 40 ∧ ((tapering 24 16).takeBayi (bayiRecord 398)).bay.localDemand = 20 ∧
    ((tapering 24 16).takeBayi (bayiRecord 398)).throttled = true ∧ ((tapering 12 16).takeBayi (bayiRecord 96)).bay.termCount = 1 ∧
    ((tapering 5 4).takeBayi (bayiRecord 95)).bay.termCount = 0 ∧
    (((tapering 5 5).takeBayi (bayiRecord 92)).takeBayi (bayiRecord 90)).bay.phase = .done := by decide +kernel

/-- Section 9.8: the credit rates under a small grant, a floor, foldback and a throttled taper. -/
theorem test_rates_of_section_9_8 :
    creditRate record15 40 rack.bay = 1 ∧ creditRate record15 24 rack.bay = 3 / 5 ∧ creditRate record15 4 rack.bay = 1 / 2 ∧
    creditRate record15 40 { rack.bay with foldback := true, localDemand := 20 } = 1 / 2 ∧
    creditRate record15 12 (tapering 15 12).bay = 4 / 5 := by decide +kernel

/-! ### Checks by evaluation of the invariants -/

/-- The bay invariant as a check that runs. -/
def bayOk (s : State) : Bool :=
  decide (s.bay.localDemand = phaseDemand s.cfg s.bay) &&
  (match s.bay.phase with
    | .charging _ => decide (2 ≤ s.commit.limit)
    | .hold _ => decide (s.commit.limit < 2)
    | .vacant | .qualify | .done | .fault _ => true) &&
  decide (s.bay.termCount ≤ 1 ∧ s.bay.taperValue ≤ 160 ∧ 0 ≤ s.bay.precharge.seconds ∧ s.bay.precharge.seconds ≤ prechargeSetting ∧
    0 ≤ s.bay.charge.seconds ∧ s.bay.charge.seconds ≤ chargeSetting) &&
  (match s.bay.phase, s.bay.precharge.run, s.bay.charge.run with
    | .charging .precharge, .running, .stopped | .hold .precharge, .paused, .stopped => true
    | .charging .fast, .stopped, .running | .charging .taper, .stopped, .running => true
    | .hold .fast, .stopped, .paused | .hold .taper, .stopped, .paused => true
    | .vacant, .stopped, .stopped | .qualify, .stopped, .stopped | .done, .stopped, .stopped | .fault _, .stopped, .stopped => true
    | _, _, _ => false)

theorem bayInv_of {s : State} (h : bayOk s = true) : BayInv s := by
  unfold bayOk at h
  simp only [Bool.and_eq_true, decide_eq_true_eq] at h
  obtain ⟨⟨⟨h1, h2⟩, h3, h4, h5, h6, h7, h8⟩, h9⟩ := h
  refine ⟨h1, fun p hp => ?_, fun p hp => ?_, h3, h4, h5, h6, h7, h8, ?_⟩
  · simpa [hp] using h2
  · simpa [hp] using h2
  · split at h9 <;> simp_all [creditsMatch]

/-- The record of the cycle that a conversion ends. -/
def recordOf (input : Int) (s : State) (ending : Ending) : Reading :=
  (s.scan.acc.add (clampSample s.scan.pos.channel input)).record s.scan.pos.channel ending

theorem cycleEnds_of {input : Int} {s : State} {e : Ending}
    (h : (decide (e = .limit) == outsideWindow s.scan.pos.channel s.scan.overvoltage (clampSample s.scan.pos.channel input)) = true)
    (hn : decide (e = .limit) = true ∨ s.scan.pos.samples ≤ s.scan.acc.count + 1) : CycleEnds s input (recordOf input s e) := by
  have hs : sampleOf s.scan.pos.channel input = clampSample s.scan.pos.channel input := rfl
  have ho := outside_iff s (clampSample s.scan.pos.channel input)
  unfold CycleEnds
  dsimp only
  rw [hs, sampled_eq, ho]
  rw [beq_iff_eq] at h
  refine ⟨?_, ?_, rfl, rfl, rfl, rfl, rfl, rfl⟩
  · rcases hn with hn | hn
    · exact .inl (h ▸ hn)
    · exact .inr hn
  · rw [← h]; simp [recordOf, Accumulators.record]

/-! ### Frames on the wire -/

def disputedRecord : RowRecord :=
  { state := .disputed, sb := 0, sc := 31, demand := 160, grant := 0, frozen := 160, tag := 0, age := 255 }

/-- FrameRoundTrip, NominalWaveformGood: frames of every kind, their fields at the ends of their ranges. -/
def sampleFrames : List Frame :=
  [leaveOf7, { sender := 1, payload := .join { tag := 0xFFFF, sb := 31, sc := 0 } }, { sender := 31, payload := .demand (demandBody 160 2 100) },
    { sender := 16, payload := .demand (demandBody 0 0 0) }, { sender := 20, payload := .query { target := 16, item := .reading, index := 7 } },
    { sender := 2, payload := .report { requester := 31, content := statusRecord .census 160 2 16 } },
    { sender := 2, payload := .report { requester := 1, content := .row 16 disputedRecord } },
    { sender := 2, payload := .report { requester := 1, content := readingRecord .diet 2 (valueBits (-40)) } },
    { sender := 3, payload := .unassigned .kind0 [] }, { sender := 3, payload := .unassigned .kind7 (List.replicate 15 0xA5) }]

theorem witness_frames_in_range : ∀ f ∈ sampleFrames, frameInRange f = true ∧ readFrame (frameCells f) = some f := by decide +kernel

/-- ReadFrameSound, SingleCellErrorRefused: the first and the last cell of section 12.4's frame, and each of its cells flipped. -/
theorem witness_cells :
    readFrame (frameCells leaveOf7) = some leaveOf7 ∧ (frameCells leaveOf7)[0]? = some false ∧ (frameCells leaveOf7)[35]? = some true ∧
    ((List.range 36).all fun k => (readFrame ((frameCells leaveOf7).modify k not)).isNone) = true := by decide +kernel

def leaveOf8 : Frame := { sender := 8, payload := .leave { tag := 0 } }
def joinOf3 : Frame := { sender := 3, payload := .join { tag := 0, sb := 0, sc := 0 } }

/-- ArbitrationAndSenders: the lower kind, the lower sender within one kind, and a cell sent as 0. -/
theorem witness_arbitration :
    frameInRange leaveOf7 = true ∧ frameInRange leaveOf8 = true ∧ frameInRange joinOf3 = true ∧
    (kindCode leaveOf8.payload).toNat < (kindCode joinOf3.payload).toNat ∧
    kindCode leaveOf7.payload = kindCode leaveOf8.payload ∧ leaveOf7.sender.toNat < leaveOf8.sender.toNat ∧
    (frameCells leaveOf7)[0]? = some false ∧
    contest (frameCells leaveOf8) ((frameCells leaveOf7).map nominalCell) = .lost := by decide +kernel

/-- The edges of the widths of R80 and R81. -/
theorem test_widths_of_low_runs :
    lowRunIsOne 1500 = true ∧ lowRunIsOne 3501 = false ∧ lowRunIsZero 6499 = false ∧ lowRunIsZero 8500 = true ∧
    timingFault [nominalCell true, nominalCell false] = false ∧
    timingFault [{ low := 2500, gap := 8999 }, nominalCell true] = true ∧ timingFault [{ low := 5000, gap := 10000 }] = true ∧
    (dataCells [nominalCell true, { low := 2500, gap := 11001 }, nominalCell true]).length = 2 := by decide

/-! ### The station in its other link states -/

/-- The station in ON with its heartbeat and isolation timers run out. -/
def spent : State :=
  { rack with line.timers := { LifeTimers.allIdle with heartbeat := .running 0, isolation := .running 0 } }

/-- The station with no limit, an empty table and its bay held. -/
def resting (link : LinkState) (timers : LifeTimers) (queue : TxQueue) : State :=
  { rack with
    line := { rack.line with
      link := link, admitted := link == .leaving, timers := timers, queue := queue, lastAnnounced := 0 }
    table := [], commit := .atPowerOn, bay := heldBay rack.bay, stat := statAt .off 0 }

def inHailing : State := { resting .hailing .allIdle { TxQueue.empty with join := .waiting } with line.admitted := true }
def inLeaving : State := resting .leaving { LifeTimers.allIdle with leave := .running 0 } { TxQueue.empty with leave := .waiting }
def inMute : State := resting .mute { LifeTimers.allIdle with mute := .running 0 } .empty
def inDown : State := { resting .down .allIdle .empty with feed.tracking := false }
def inBarred : State := { resting .barred .allIdle .empty with feed.tracking := false, stat := statAt .threePulses 0 }

/-- CENSUS: own row JOINING with its floor, L at the floor, the bay throttled in FAST. -/
def inCensus : State :=
  { rack with
    line := { rack.line with link := .census, timers := { rack.line.timers with census := .running 0 }, lastAnnounced := 0 }
    table := [{ rowOf 15 2 3 (.joining 4 false) 0 with tag := 0x1234, sb := 17 }]
    commit := { target := 4, limit := 4, hold := .idle }, stat := statAt .blink4 0 }

/-- The strap pass about to begin. -/
def fresh : State :=
  { rack with
    config := none, scan := .atPowerOn, feed := .atPowerOn, line := .atPowerOn, table := [], commit := .atPowerOn, bay := .atPowerOn
    stat := .atPowerOn }

def own (p : Payload) : Frame := { sender := 15, payload := p }
def ownJoin : JoinBody := { tag := 0x1234, sb := 17, sc := 3 }

/-- A start mark and one kind cell: the cells end early, and every receiver finds the frame bad. -/
def cutShort : Reception := waveformOf false [false]

/-- The station with a frame of its own on the line. -/
def sending (p : Payload) (s : State) : State := { s with wire.tx := some (own p), line.queue := (s.beginFrame).line.queue }

/-! ### Invariants -/

theorem bayInv_states :
    BayInv rack ∧ BayInv inHailing ∧ BayInv inLeaving ∧ BayInv inMute ∧ BayInv inDown ∧ BayInv inBarred ∧ BayInv inCensus ∧ BayInv fresh :=
  ⟨bayInv_of (by decide +kernel), bayInv_of (by decide +kernel), bayInv_of (by decide +kernel), bayInv_of (by decide +kernel),
    bayInv_of (by decide +kernel), bayInv_of (by decide +kernel), bayInv_of (by decide +kernel), bayInv_of (by decide +kernel)⟩

/-- The invariants that the Kept statements start from hold of the station in ON with a command waiting, and that step answers a next state. -/
theorem witness_invariants_in_on :
    TableInv rack ∧ FeedInv rack ∧ TrackingInv rack ∧ CommitInv rack ∧ TimersInv rack ∧ TimersByLinkInv rack ∧ EmptyTableInv rack ∧
    ∃ t, step { rack with pending := [.heartbeatTimerExpiry] } = .next t := by
  refine ⟨?_, ?_, ?_, ?_, ?_, ?_, ?_, _, rfl⟩
  · unfold TableInv; decide +kernel
  · unfold FeedInv; decide +kernel
  · unfold TrackingInv; decide +kernel
  · unfold CommitInv; decide +kernel
  · unfold TimersInv; simp [Timer.within, rack, FeedWatch.atPowerOn, LifeTimers.allIdle, ms, heartbeatMs, isolationMs]
  · exact ⟨rfl, rfl, rfl, rfl⟩
  · unfold EmptyTableInv; decide +kernel

/-- CensusInvKept in CENSUS itself. -/
theorem witness_invariants_in_census :
    StrapPassInv inCensus ∧ TableInv inCensus ∧ CommitInv inCensus ∧ OwnNumberInv inCensus ∧ CensusInv inCensus ∧ QueueInv inCensus := by
  refine ⟨?_, ?_, ?_, ⟨?_, ?_⟩, fun _ => ⟨by decide +kernel, ?_, ?_⟩, ?_⟩
  · exact ⟨fun h => absurd h (by decide), fun _ => rfl⟩
  · unfold TableInv; decide +kernel
  · unfold CommitInv; decide +kernel
  · intro n h
    have : n = 15 := by simpa using (show some 15 = some n from h).symm
    omega
  · intro f h; cases h
  · intro r h
    have : inCensus.ownRow = some { rowOf 15 2 3 (.joining 4 false) 0 with tag := 0x1234, sb := 17 } := by decide +kernel
    rw [this] at h; cases h; rfl
  · intro f h; cases h
  · refine ⟨by decide +kernel, by decide +kernel, by decide +kernel, by decide +kernel, by decide +kernel, fun _ f h => ?_, by decide +kernel⟩
    cases h

/-- ScanInvKept and StrapRecord, StrapPassEnd: the strap pass about to begin; StrapPassKept: at its power-on values. -/
theorem scanInv_fresh : ScanInv fresh := by
  refine ⟨by decide, fun _ => rfl, fun h => absurd h (by decide), fun c r h => ?_⟩
  cases c <;> cases h

theorem witness_strap_pass : StrapPassInv fresh ∧ EmptyTableInv fresh ∧ fresh.scan.pos.inStrapPass = true := by
  refine ⟨⟨fun _ => ?_, by decide⟩, ?_, rfl⟩
  · exact ⟨rfl, rfl, rfl, rfl, rfl, rfl, rfl, rfl, rfl⟩
  · unfold EmptyTableInv; decide

theorem witness_StatInvKept : StatInv rack ∧ StatInv inCensus ∧ StatInv fresh := by
  refine ⟨⟨by decide +kernel, ?_⟩, ⟨by decide +kernel, ?_⟩, ⟨by decide +kernel, rfl, rfl⟩⟩
  · exact ⟨500, rfl, rfl, Nat.le_refl _⟩
  · exact ⟨125, rfl, rfl, Nat.le_refl _⟩

/-- LinkTransitions: a change to each link state. -/
theorem witness_LinkTransitions :
    StrapPassInv rack ∧ StrapPassInv inHailing ∧ StrapPassInv inDown ∧ StrapPassInv fresh ∧
    (after .enFall inHailing).line.link = .down ∧ (after .enRise inDown).line.link = .hailing ∧
    (after (.join 15 ownJoin) (sending (.join ownJoin) { inHailing with wire.idle := true })).line.link = .census ∧
    (after .censusTimerExpiry inCensus).line.link = .on ∧ (after .enFall rack).line.link = .leaving ∧
    rack.vetoes cutShort = true ∧ (after (.leave 15 { tag := 0x1235 }) inLeaving).line.link = .barred ∧
    (after (.frameVetoed cutShort) { rack with line.vetoRun := 7 }).line.link = .mute ∧ (after (.join 15 ownJoin) rack).line.link = .barred := by
  refine ⟨⟨fun h => absurd h (by decide), fun _ => rfl⟩, ⟨fun h => absurd h (by decide), fun _ => rfl⟩,
    ⟨fun h => absurd h (by decide), fun _ => rfl⟩, ⟨fun _ => by unfold AtPowerOn; decide +kernel, by decide⟩, ?_⟩
  decide +kernel

/-- LimitRisesOnlyAtHoldExpiry, RaiseHoldExpires: T above L with the hold running. -/
def holding : State := { rack with commit := { target := 40, limit := 24, hold := .running 0 }, stat := statAt .blink4 0 }

theorem witness_LimitRises : holding.commit.limit < (after .raiseHoldExpiry holding).commit.limit ∧ BayInv holding :=
  ⟨by decide +kernel, bayInv_of (by decide +kernel)⟩

theorem witness_RaiseHoldExpires :
    holding.commit.hold = .running 0 ∧ holding.pins.almHigh = true ∧ holding.commit.limit < holding.commit.target ∧
    (after .raiseHoldExpiry holding).commit = { target := 40, limit := 40, hold := .idle } ∧
    (after .raiseHoldExpiry { holding with commit.target := 24 }).commit = { target := 24, limit := 24, hold := .idle } := by decide +kernel

/-- SafeDrawAlways with foldback set: half the fast current; without it the fast current, or L below it; the voltage of each profile. -/
theorem witness_SafeDraw :
    rack.regulatedMilliamps = 1000 ∧ holding.regulatedMilliamps = 600 ∧ rack.regulatedMillivolts = 4200 ∧
    ({ rack with config := some { record15 with sc := 19 } } : State).regulatedMillivolts = 4350 ∧
    ({ rack with bay := { rack.bay with foldback := true } } : State).regulatedMilliamps = 500 ∧ rack.gate = true ∧ inHailing.gate = false := by
  decide +kernel

/-! ### The share rule -/

/-- 40 units, `frozen` of them reserved, for three live rows. -/
def tight (frozen : Nat) : List Row :=
  [rowOf 2 0 0 (.active 0 false) 30, rowOf 3 0 0 (.active 0 false) 20, rowOf 5 1 0 (.joining 0 false) 0, rowOf 6 1 0 (.silent frozen) 36]

/-- GrantSumBounded, GrantForms, StarvedRowsLast: differences of 12, 4 and 3 units for three live rows. -/
theorem witness_tight_tables :
    tableWf (tight 28) ∧ tableWf (tight 36) ∧ tableWf (tight 37) ∧ tableWf rackOfFive ∧ tableWf (tight 0) ∧
    (recomputeRows (tight 28) 0).map ruleOutput = [(2, 4, false), (3, 4, false), (5, 4, false), (6, 0, false)] ∧
    (recomputeRows (tight 36) 0).map ruleOutput = [(2, 4, false), (3, 0, true), (5, 0, true), (6, 0, false)] ∧
    (recomputeRows (tight 37) 0).map ruleOutput = [(2, 0, true), (3, 0, true), (5, 0, true), (6, 0, false)] := by decide +kernel

theorem witness_IsBasis : IsBasis (tight 36) 40 ∧ IsBasis rackOfFive 160 := by
  refine ⟨⟨⟨rowOf 2 0 0 (.active 0 false) 30, by decide +kernel⟩, by decide +kernel⟩,
    ⟨⟨rowOf 5 2 3 (.joining 0 false) 0, by decide +kernel⟩, by decide +kernel⟩⟩

/-- GrantSumBounded: 6 units for two rows that want no more than their floors: one is starved and 2 units are left over. -/
theorem witness_slack :
    tableWf [rowOf 2 0 0 (.active 0 false) 4, rowOf 3 0 0 (.active 0 false) 3, rowOf 6 1 0 (.silent 34) 0] ∧
    (recomputeRows [rowOf 2 0 0 (.active 0 false) 4, rowOf 3 0 0 (.active 0 false) 3, rowOf 6 1 0 (.silent 34) 0] 0).map ruleOutput =
      [(2, 4, false), (3, 0, true), (6, 0, false)] := by decide +kernel

theorem witness_GrantsFollowInputsAlone :
    rackOfFive.map ruleInput = (recomputeRows rackOfFive 2).map ruleInput ∧ rackOfFive ≠ recomputeRows rackOfFive 2 ∧
    tableWf (recomputeRows rackOfFive 2) := by decide +kernel

/-- HigherClassesFirst (station 1 above station 2) and EvenWithinClass (station 3 below and before station 4; the odd unit of station 1). -/
theorem witness_classes :
    ∃ a ∈ recomputeRows rackOfFour 0, ∃ b ∈ recomputeRows rackOfFour 0, ∃ c ∈ recomputeRows rackOfFour 0, ∃ d ∈ recomputeRows rackOfFour 0,
      a.isActive = true ∧ a.starved = false ∧ b.live = true ∧ a.classNo < b.classNo ∧ 4 < b.grant ∧
      c.isActive = true ∧ d.isActive = true ∧ c.starved = false ∧ d.starved = false ∧ c.classNo = d.classNo ∧ c.grant + 1 < d.grant ∧
      c.station < d.station := by decide +kernel

/-- FrameRowRules: a matching tag, another tag, and a DISPUTED row; a new age alone is not handed on, a new state, demand, class or capacity code is. -/
theorem witness_FrameRowRules :
    (rowOf 4 0 3 (.joining 4 false) 0).name ≠ .disputed ∧ (rowOf 4 0 3 (.joining 4 false) 0).tag ≠ (demandBody 0 0 0).tag ∧
    (rowOf 4 0 3 (.silent 20) 0).tag = 7 ∧ (rowOf 4 0 3 (.disputed 20 9) 0).name = .disputed ∧
    demandRow 4 (demandBody 0 0 0) (some (rowOf 4 0 3 (.active 20 false) 0)) = some (rowOf 4 0 3 (.disputed 20 0) 0) ∧
    leaveRow { tag := 8 } (some (rowOf 4 0 3 (.silent 20) 0)) = some (rowOf 4 0 3 (.disputed 20 0) 0) ∧
    joinRow 4 ownJoin (some (rowOf 4 0 3 (.disputed 20 9) 0)) = some (rowOf 4 0 3 (.disputed 20 0) 0) ∧
    handedOn (some (rowOf 4 0 3 (.joining 4 false) 0)) (some { rowOf 4 0 3 (.joining 4 false) 0 with age := 9, sb := 7, sc := 19 }) = false ∧
    handedOn (some (rowOf 4 0 3 (.joining 4 false) 0)) (some { rowOf 4 0 3 (.joining 4 false) 0 with sb := 8 }) = true ∧
    handedOn (some (rowOf 4 0 3 (.joining 4 false) 0)) (some { rowOf 4 0 3 (.joining 4 false) 0 with sc := 2 }) = true ∧
    handedOn none (some (rowOf 4 0 3 (.joining 4 false) 0)) = true ∧ handedOn none none = false ∧
    tableWf rackOfFour ∧ findRow 4 (putRow 4 none rackOfFour) = none := by decide +kernel

/-! ### Power, conversions and records -/

theorem witness_PowerOnValues :
    (after .powerOn rack).power = .released ∧ (after .powerOn rack).tag = 0x1234 ∧ (after .supplyMonitorReset rack).power = .held ∧
    (after .supplyMonitorReset rack).line.link = .down ∧ (after .powerOn inMute).scan.pos = .s1 ∧
    (after .powerOn { rack with wire.idle := true }).wire.idle = false := by decide +kernel

/-- ConversionInsideCycle: held in reset; and the first sample of a BAYV cycle, exactly at the overvoltage limit. -/
theorem witness_ConversionInsideCycle :
    ({ rack with power := .held } : State).power = .held ∧ rack.power = .released ∧ ¬Outside rack (sampleOf rack.scan.pos.channel 4300) ∧
    rack.scan.acc.count + 1 < rack.scan.pos.samples ∧
    (after (.conversion ⟨4300, false⟩) rack).scan.acc = { count := 1, min := 4300, max := 4300, sum := 4300, last := 4300 } ∧
    (after (.conversion ⟨4300, false⟩) rack).line.timers.heartbeat = .running 19999 ∧
    (after (.conversion ⟨4300, false⟩) rack).bay.charge.seconds = 1 / 40000 ∧
    (after (.conversion ⟨4300, true⟩) { rack with wire.idle := true }).wire.idle = false ∧
    (after .heartbeatTimerExpiry (after (.conversion ⟨4300, true⟩) { spent with wire.idle := true })).wire.tx = none ∧
    (after .heartbeatTimerExpiry (after (.conversion ⟨4300, false⟩) { spent with wire.idle := true })).wire.tx.isSome = true ∧
    rack.sourceMicroamps .pid = 0 ∧ ({ rack with scan.pos := .p8 } : State).developedMillivolts .pid 47 = 470 ∧
    fresh.developedMillivolts .strapa 60 = 1200 ∧ ({ fresh with power := .held } : State).sourceMicroamps .strapa = 0 := by
  refine ⟨rfl, rfl, ?_, by decide, ?_⟩
  · rw [outside_iff]; decide
  · decide +kernel

/-- CreditRates: FAST, TAPER not throttled at exactly its limit, TAPER throttled. -/
theorem witness_CreditRates :
    BayInv rack ∧ BayInv (tapering 12 12) ∧ BayInv (tapering 15 12) ∧ (tapering 12 12).throttled = false ∧ (tapering 15 12).throttled = true :=
  ⟨bayInv_of (by decide +kernel), bayInv_of (by decide +kernel), bayInv_of (by decide +kernel), by decide +kernel, by decide +kernel⟩

/-- One sample short of the end of a cycle at a scan position, every sample so far being v. -/
def lastSample (pos : ScanPos) (v : Int) (s : State) : State :=
  { s with
    scan.pos := pos
    scan.acc := { count := pos.samples - 1, min := v, max := v, sum := (pos.samples - 1) * v, last := v } }

/-- FeedvRecord: COMPLETE with every sample exactly at the limit; LIMIT after no LIMIT, and after one, with the drive and without it (re-arm
timer running; ALM low; link state LEAVING). -/
theorem witness_FeedvRecord :
    CycleEnds (lastSample .p1 4600 rack) 4600 (recordOf 4600 (lastSample .p1 4600 rack) .complete) ∧
    CycleEnds (lastSample .p1 4600 rack) 4599 (recordOf 4599 (lastSample .p1 4600 rack) .limit) ∧
    (after (.conversion ⟨4599, false⟩) (lastSample .p1 4600 rack)).feed.droop = 1 ∧
    (after (.conversion ⟨4599, false⟩) (lastSample .p1 4600 { rack with feed.droop := 1 })).feed.drive = .running 80 ∧
    (after (.conversion ⟨4599, false⟩) (lastSample .p1 4600 { rack with feed.droop := 1, feed.rearm := .running 0 })).feed.drive = .idle ∧
    (after (.conversion ⟨4599, false⟩) (lastSample .p1 4600 { rack with feed.droop := 1, pins.almHigh := false })).feed.droop = 0 ∧
    (after (.conversion ⟨4599, false⟩) (lastSample .p1 4600 { inLeaving with feed.droop := 1 })).feed.drive = .idle :=
  ⟨cycleEnds_of (by decide) (.inr (by decide)), cycleEnds_of (by decide) (.inl (by decide)), by decide +kernel⟩

/-- BayvRecord: FAST to TAPER exactly at the taper entry; an overvoltage one above the limit; QUALIFY with L at 0 goes on to HOLD. -/
theorem witness_BayvRecord :
    BayInv (lastSample .p2 4150 rack) ∧ rack.power = .released ∧ (lastSample .p2 4150 rack).scan.pos.channel = .bayv ∧
    CycleEnds (lastSample .p2 4150 rack) 4150 (recordOf 4150 (lastSample .p2 4150 rack) .complete) ∧
    (after (.conversion ⟨4150, false⟩) (lastSample .p2 4150 rack)).bay.phase = .charging .taper ∧
    (after (.conversion ⟨4149, false⟩) (lastSample .p2 4149 rack)).bay.phase = .charging .fast ∧
    (after (.conversion ⟨4301, false⟩) rack).bay.phase = .fault .bayOvervoltage ∧
    (after (.conversion ⟨2999, false⟩) (lastSample .p2 2999 { inHailing with bay := qualified rack.bay })).bay.phase = .hold .precharge :=
  ⟨bayInv_of (by decide +kernel), rfl, rfl, cycleEnds_of (by decide) (.inr (by decide)), by decide +kernel⟩

/-- BayiRecord: a small record in TAPER, the second of which ends the charge; any record in FAST does nothing. -/
theorem witness_BayiRecord :
    BayInv (lastSample .p4 92 (tapering 5 5)) ∧ CycleEnds (lastSample .p4 92 (tapering 5 5)) 92 (recordOf 92 (lastSample .p4 92 (tapering 5 5)) .complete) ∧
    (after (.conversion ⟨92, false⟩) (lastSample .p4 92 (tapering 5 5))).bay.termCount = 1 ∧
    (after (.conversion ⟨920, false⟩) (lastSample .p4 920 rack)).bay = (lastSample .p4 920 rack).tick.bay :=
  ⟨bayInv_of (by decide +kernel), cycleEnds_of (by decide) (.inr (by decide)), by decide +kernel⟩

/-- DietRecord: foldback exactly at 110 degrees, which lowers the demand of FAST; DIE_HOT at 125; and the end of a DIE_HOT fault below 100. -/
theorem witness_DietRecord :
    BayInv (lastSample .p6 110 rack) ∧ CycleEnds (lastSample .p6 110 rack) 110 (recordOf 110 (lastSample .p6 110 rack) .complete) ∧
    (after (.conversion ⟨110, false⟩) (lastSample .p6 110 rack)).bay.localDemand = 20 ∧
    (after (.conversion ⟨109, false⟩) (lastSample .p6 109 rack)).bay.foldback = false ∧
    (after (.conversion ⟨125, false⟩) (lastSample .p6 125 rack)).bay.phase = .fault .dieHot ∧
    (after (.conversion ⟨99, false⟩) (lastSample .p6 99 { rack with bay := faulted .dieHot rack.bay })).bay.phase = .qualify ∧
    (after (.conversion ⟨-4, false⟩) (lastSample .p6 (-3) rack)).store.diet.map Reading.average = some (-3) :=
  ⟨bayInv_of (by decide +kernel), cycleEnds_of (by decide) (.inr (by decide)), by decide +kernel⟩

/-- PidRecord: the second valid record qualifies the pack, an open one removes it, the second short one is a fault. -/
theorem witness_PidRecord :
    BayInv (lastSample .p8 2000 rack) ∧ CycleEnds (lastSample .p8 2000 rack) 2000 (recordOf 2000 (lastSample .p8 2000 rack) .complete) ∧
    (after (.conversion ⟨2000, false⟩) (lastSample .p8 2000 rack)).bay.phase = .vacant ∧
    (after (.conversion ⟨99, false⟩) (lastSample .p8 99 { rack with bay.prevPid := some .short })).bay.phase = .fault .packIdInvalid ∧
    (after (.conversion ⟨100, false⟩) (lastSample .p8 100 { rack with bay.prevPid := some .short })).bay.phase = .charging .fast ∧
    (after (.conversion ⟨470, false⟩) (lastSample .p8 470 { rack with bay := { BayController.atPowerOn with prevPid := some .valid } })).bay.phase =
      .qualify :=
  ⟨bayInv_of (by decide +kernel), cycleEnds_of (by decide) (.inr (by decide)), by decide +kernel⟩

/-- The last sample of the strap pass, SA and SB decoded as in section 10.4. -/
def lastStrap (v : Int) : State :=
  lastSample .s3 v { fresh with straps := { sa := some { code := 15, stable := true }, sb := some { code := 17, stable := true } } }

/-- StrapRecord: at the bottom of a band, and across a band's edge. -/
theorem witness_StrapRecord :
    ScanInv (lastSample .s1 1125 fresh) ∧ CycleEnds (lastSample .s1 1125 fresh) 1125 (recordOf 1125 (lastSample .s1 1125 fresh) .complete) ∧
    (after (.conversion ⟨1125, false⟩) (lastSample .s1 1125 fresh)).straps.sa = some { code := 15, stable := true } ∧
    (after (.conversion ⟨1124, false⟩) (lastSample .s2 1125 fresh)).straps.sb = some { code := 14, stable := false } := by
  refine ⟨?_, cycleEnds_of (by decide) (.inr (by decide)), by decide +kernel⟩
  refine ⟨by decide, by decide, fun _ => ⟨by unfold inRange; decide, by unfold inRange; decide, by decide, by decide, by decide, fun h => ?_,
    by decide, by decide⟩, fun c r h => ?_⟩
  · cases h
  · cases c <;> cases h

/-- StrapPassEnd: HAILING with EN high, DOWN with EN low, BARRED with SC unstable or SA's code 0. -/
theorem witness_StrapPassEnd :
    ScanInv (lastStrap 262) ∧ StrapPassInv (lastStrap 262) ∧ CycleEnds (lastStrap 262) 262 (recordOf 262 (lastStrap 262) .complete) ∧
    (after (.conversion ⟨262, false⟩) (lastStrap 262)).config = some record15 ∧ (after (.conversion ⟨262, false⟩) (lastStrap 262)).line.link = .hailing ∧
    (after (.conversion ⟨262, false⟩) { lastStrap 262 with pins := { en := false, almHigh := true } }).line.link = .down ∧
    (after (.conversion ⟨300, false⟩) (lastStrap 299)).line.link = .barred ∧
    (after (.conversion ⟨262, false⟩) { lastStrap 262 with straps.sa := some { code := 0, stable := true } }).line.link = .barred := by
  refine ⟨?_, ⟨fun _ => ⟨rfl, rfl, rfl, rfl, rfl, rfl, rfl, rfl, rfl⟩, by decide⟩, cycleEnds_of (by decide) (.inr (by decide)), by decide +kernel⟩
  refine ⟨by decide, by decide, fun _ => ⟨by unfold inRange; decide, by unfold inRange; decide, by decide, by decide, by decide, fun h => ?_,
    by decide, by decide⟩, fun c r h => ?_⟩
  · cases h
  · cases c <;> cases h

/-! ### SHL -/

/-- IdleAdmitsAndOffers: admission, the JOIN that begins at once, and ADMISSION where it is no event. -/
theorem witness_IdleAdmitsAndOffers :
    (after .shlIdle { inHailing with line.admitted := false }).wire.tx = some (own (.join ownJoin)) ∧
    (after .admissionOnQuietLine { inHailing with line.admitted := false }).line.admitted = true ∧
    (after .admissionOnQuietLine inHailing).wire.tx = none ∧ (after .shlIdle rack).wire.idle = true := by decide +kernel

/-- UnheardFrame, in DOWN, MUTE, BARRED and HAILING before admission. -/
theorem witness_UnheardFrame :
    inDown.takesLine = false ∧ inMute.takesLine = false ∧ inBarred.takesLine = false ∧
    ({ inHailing with line.admitted := false } : State).takesLine = false ∧ (after (.join 4 ownJoin) inMute).table = [] ∧
    (after (.frameVetoed cutShort) inMute).line.vetoRun = 0 := by decide +kernel

/-- FrameOutOfRange: the veto run at 6 and at 7. -/
theorem witness_FrameOutOfRange :
    frameInRange { sender := 4, payload := .demand (demandBody 161 0 0) } = false ∧ rack.takesLine = true ∧
    (after (.demand 4 (demandBody 161 0 0)) { rack with line.vetoRun := 6 }).line.vetoRun = 7 ∧
    (after (.demand 4 (demandBody 161 0 0)) { rack with line.vetoRun := 7 }).line.link = .mute ∧
    (after (.demand 4 (demandBody 161 0 0)) rack).table = rack.table := by decide +kernel

/-- VetoedFrame: by another party, by this station, and by this station for the eighth time; a start mark too long, or with no kind cell after
it, begins no frame and nobody vetoes it (R80, R81); an edge too early, a cell of 5 microseconds and a first kind cell too early are bad. -/
theorem witness_VetoedFrame :
    stationVetoes none (nominalWaveform leaveOf7) = false ∧ stationVetoes none cutShort = true ∧
    stationVetoes none { cutShort with startLow := 22001 } = false ∧ stationVetoes none { cutShort with cells := [] } = false ∧
    stationVetoes none { cutShort with startGap := 24501 } = false ∧
    stationVetoes none { nominalWaveform leaveOf7 with startGap := 20499 } = true ∧
    stationVetoes none { nominalWaveform leaveOf7 with startGap := 20500, startLow := 18000 } = false ∧
    stationVetoes none { nominalWaveform leaveOf7 with cells := (nominalWaveform leaveOf7).cells.set 0 { low := 7500, gap := 8999 } } = true ∧
    stationVetoes none { nominalWaveform leaveOf7 with cells := (nominalWaveform leaveOf7).cells.set 0 { low := 8501, gap := 10000 } } = true ∧
    stationVetoes none { nominalWaveform leaveOf7 with cells := (nominalWaveform leaveOf7).cells.set 0 { low := 6500, gap := 9000 } } = false ∧
    (after (.frameVetoed cutShort) { rack with line.vetoRun := 6 }).line.vetoRun = 7 ∧
    (after (.frameVetoed (nominalWaveform leaveOf7)) { rack with line.vetoRun := 6 }).line.vetoRun = 6 := by decide +kernel

/-- What a sender of a frame sees when cell k of it comes with another width of low run. -/
def withCell (f : Frame) (k low : Nat) : Reception :=
  { waveformOf true (frameCells f) with cells := ((frameCells f).map nominalCell).set k { low := low, gap := 10000 } }

/-- ArbitrationAndSenders, a sender in general: it loses in a cell drawn out by another and vetoes, since the frame it then sees is nobody's; it errs
where a 0 comes as a 1 or with an illegal width, drives on to its end and vetoes; and it sees its own frame as sent. -/
theorem witness_sender :
    (∃ k, LosesIn leaveOf8 (withCell leaveOf8 35 7500) k) ∧ (∃ k, ErrsIn leaveOf8 (withCell leaveOf8 0 2500) k) ∧
    (∃ k, ErrsIn leaveOf8 (withCell leaveOf8 0 9000) k) ∧
    (¬∃ k, LosesIn leaveOf8 (waveformOf true (frameCells leaveOf8)) k) ∧ (¬∃ k, ErrsIn leaveOf8 (waveformOf true (frameCells leaveOf8)) k) ∧
    (∃ k, ErrsIn leaveOf8 { withCell leaveOf8 0 7500 with
      cells := ((frameCells leaveOf8).map nominalCell).set 35 { low := 2500, gap := 8999 } ++ [nominalCell true] } k) ∧
    stationVetoes (some leaveOf8) (withCell leaveOf8 35 7500) = true ∧
    (({ inDown with wire.tx := some leaveOf8 } : State).shlDrives (withCell leaveOf8 0 9000)).length = 38 ∧
    (({ inDown with wire.tx := some leaveOf8 } : State).shlDrives (withCell leaveOf8 0 9000))[37]? = some { start := 382500, stop := 402500 } := by
  simp only [losesIn_iff, errsIn_iff]
  decide +kernel

/-- R60 at a vetoed and at an accepted DEMAND: a renewed slot waits either way, one not renewed only where its frame was vetoed. -/
theorem test_slot_outcomes :
    let on (renewed : Bool) : State :=
      { rack with wire.tx := some (own (.demand (demandBody 40 0 0))), line.queue.demand := .onLine renewed }
    (after (.frameVetoed cutShort) (on true)).line.queue.demand = .waiting ∧ (after (.frameVetoed cutShort) (on false)).line.queue.demand = .waiting ∧
    (after (.demand 15 (demandBody 40 0 0)) (on true)).line.queue.demand = .waiting ∧
    (after (.demand 15 (demandBody 40 0 0)) (on false)).line.queue.demand = .empty := by decide +kernel

/-- What a sender sees whose start mark is drawn out to 30 microseconds: the low run begins no frame. -/
def drawnOut : Reception := { sending := true, startLow := 30000, startGap := 40000, cells := [] }

/-- What a sender sees whose driver cannot pull low, on a line that nobody else drives. -/
def deadDriver : Reception := { sending := true, startLow := 0, startGap := 0, cells := [] }

/-- VetoedFrame, at a sender: a low run that begins no frame leaves its veto run as it is (R80, R81, R95), a dead driver raises it (R87, R98). -/
theorem witness_VetoedFrame_sender :
    let s : State := { rack with line.vetoRun := 6, wire.tx := some (own (.demand (demandBody 40 0 0))), line.queue.demand := .onLine false }
    0 < drawnOut.startLow ∧ ¬(drawnOut.startLow ≤ 22000) ∧ s.vetoes drawnOut = false ∧ (after (.frameVetoed drawnOut) s).line.vetoRun = 6 ∧
    (after (.frameVetoed { drawnOut with startLow := 20000, startGap := 24501, cells := [nominalCell true] }) s).line.vetoRun = 6 ∧
    (after (.frameVetoed drawnOut) s).line.queue.demand = .waiting ∧ s.shlDrives drawnOut ≠ [] ∧
    s.vetoes deadDriver = true ∧ (after (.frameVetoed deadDriver) s).line.vetoRun = 7 := by decide +kernel

/-- A DEMAND whose demand field, the sixth payload byte, is out of range. -/
def wantsTooMuch : Frame := { sender := 4, payload := .demand (demandBody 161 0 0) }

/-- R91's three intervals at the last of 36 data cells, edge at 372.5 microseconds, and after the first of them; each is sampled low. A range
fault is known from the field's last cell on (R89), so cells that end there are known bad before the window. -/
theorem test_veto_drives :
    rack.shlDrives (waveformOf false ((frameCells leaveOf7).set 31 true)) = [{ start := 382500, stop := 402500 }] ∧
    rack.shlDrives cutShort = [{ start := 33500, stop := 52500 }] ∧
    rack.shlDrives (waveformOf false (frameCells leaveOf7 ++ [true])) = [{ start := 382500, stop := 402500 }] ∧
    rack.shlDrives (waveformOf false ((frameCells wantsTooMuch).take 59)) = [{ start := 613500, stop := 632500 }] ∧
    rack.shlDrives (waveformOf false ((frameCells wantsTooMuch).take 60)) = [{ start := 622500, stop := 642500 }] ∧
    windowVetoed 372500 [{ start := 382500, stop := 402500 }] = true ∧ windowVetoed 22500 [{ start := 33500, stop := 52500 }] = true ∧
    windowVetoed 372500 [{ start := 387501, stop := 397500 }] = false ∧ windowVetoed 372500 [{ start := 387500, stop := 387501 }] = true := by
  decide +kernel

/-- A frame of this station's own in DOWN (R64, R96): a bit error in its last 0 is vetoed, a loss in its fifth cell releases the line, and neither
changes the station; a sender drawn to an edge 9 microseconds after its first cell's (R80). -/
theorem test_finishing_sender :
    ({ inDown with wire.tx := some leaveOf8 } : State).vetoes (waveformOf true ((frameCells leaveOf8).set 34 true)) = true ∧
    (({ inDown with wire.tx := some leaveOf8 } : State).shlDrives (waveformOf true ((frameCells leaveOf8).set 34 true))).getLast? =
      some { start := 382500, stop := 402500 } ∧
    ({ inDown with wire.tx := some leaveOf8 } : State).vetoes (waveformOf true (frameCells leaveOf7)) = false ∧
    (frameCells leaveOf8).take 4 = (frameCells leaveOf7).take 4 ∧ (frameCells leaveOf8)[4]? = some true ∧
    (frameCells leaveOf7)[4]? = some false ∧
    (({ inDown with wire.tx := some leaveOf8 } : State).shlDrives (waveformOf true (frameCells leaveOf7))).length = 6 ∧
    inDown.takesLine = false ∧ inDown.shlDrives cutShort = [] ∧
    (after (.frameVetoed (waveformOf true ((frameCells leaveOf8).set 34 true))) { inDown with wire.tx := some leaveOf8 }).line = inDown.line ∧
    cellDrives [22500, 31500] 20000 22500 [true, false] = [{ start := 22500, stop := 25000 }, { start := 31500, stop := 39000 }] := by
  decide +kernel

/-- DuplicateBars: a frame of an unassigned kind under the own number. -/
theorem witness_DuplicateBars :
    Accepts rack (own (.unassigned .kind4 [])) ∧ ¬IsOwn rack (own (.unassigned .kind4 [])) ∧ rack.ownNumber = some 15 ∧
    (after (.unassignedKindFrame .kind4 15 []) rack).line.link = .barred ∧ (after (.unassignedKindFrame .kind4 15 []) rack).commit.limit = 0 := by
  refine ⟨⟨by decide, by decide⟩, ?_, rfl, by decide +kernel⟩
  intro h; cases h

/-- AcceptedWithoutEffect: each kind of frame that goes to no block. -/
theorem witness_AcceptedWithoutEffect :
    Accepts rack { sender := 17, payload := .join ownJoin } ∧ FromPeer rack { sender := 17, payload := .join ownJoin } ∧
    (after (.join 17 ownJoin) { rack with line.vetoRun := 5 }).line.vetoRun = 0 ∧ (after (.join 17 ownJoin) rack).table = rack.table ∧
    (after (.report 4 { requester := 20, content := statusRecord .on 0 0 1 }) rack).commit = rack.commit ∧
    (after (.join 15 ownJoin) { rack with wire.tx := some (own (.join ownJoin)) }).line.link = .on ∧
    (after (.leave 15 { tag := 0x1234 }) { rack with wire.tx := some (own (.leave { tag := 0x1234 })) }).line.link = .on ∧
    IsOwn { rack with wire.tx := some (own (.query { target := 15, item := .status, index := 0 })) }
      (own (.query { target := 15, item := .status, index := 0 })) ∧
    (after (.unassignedKindFrame .kind0 31 []) { rack with line.vetoRun := 5 }).line.vetoRun = 0 := by
  refine ⟨⟨by decide, by decide⟩, ⟨by decide, by decide⟩, by decide +kernel, by decide +kernel, by decide +kernel, by decide +kernel,
    by decide +kernel, rfl, by decide +kernel⟩

/-- JoinAccepted: a peer's, which takes a floor from the own grant; the own one, for which T is the own row's floor. -/
theorem witness_JoinAccepted :
    Accepts rack { sender := 16, payload := .join ownJoin } ∧ FromPeer rack { sender := 16, payload := .join ownJoin } ∧
    IsOwn (sending (.join ownJoin) { inHailing with wire.idle := true }) (own (.join ownJoin)) ∧
    (after (.join 16 ownJoin) rack).table.map Row.grant = [4, 40, 4] ∧
    (after (.join 15 ownJoin) (sending (.join ownJoin) { inHailing with wire.idle := true })).commit =
      { target := 4, limit := 0, hold := .running 10000 } := by
  refine ⟨⟨by decide, by decide⟩, ⟨by decide, by decide⟩, rfl, by decide +kernel⟩

/-- PeerDemandAccepted: an ACTIVE demand that lowers the own grant to its even share, L with it at once; a higher stage adopted with its quiet remaining. -/
theorem witness_PeerDemandAccepted :
    Accepts rack { sender := 4, payload := .demand { demandBody 160 0 0 with tag := 7 } } ∧
    FromPeer rack { sender := 4, payload := .demand { demandBody 160 0 0 with tag := 7 } } ∧
    (after (.demand 4 { demandBody 160 0 0 with tag := 7, sb := 0 }) rack).commit.limit = 4 ∧
    (after (.demand 4 { demandBody 160 0 0 with tag := 8 }) rack).table.map Row.name = [.disputed, .active] := by
  refine ⟨⟨by decide, by decide⟩, ⟨by decide, by decide⟩, by decide +kernel⟩

/-- A DEMAND of station 4 at stage 1. -/
def raised : DemandBody := { demandBody 4 1 50 with tag := 7, sb := 0 }

/-- PeerDemandAccepted, a carried stage above the own one: whichever of table and feed watch is first (log 9), stage and quiet remaining are adopted
and the row becomes ACTIVE. -/
theorem test_peer_stage_adopted :
    (after (.demand 4 raised) rack).feed = { rack.feed with stage := 1, quiet := .running 200000 } ∧
    (after (.demand 4 raised) rack).table.map Row.name = [.active, .active] := by
  have ha : Accepts rack { sender := 4, payload := .demand raised } := ⟨by decide, by decide⟩
  have hp : FromPeer rack { sender := 4, payload := .demand raised } := ⟨by decide, by decide⟩
  have h : after (.demand 4 raised) rack = ((afterAccept false rack).takeDemand 4 raised).settle := by
    have := (acceptFrame_accepted ha (State.takeDemandFrame 4 raised)).2.2 hp
    show (rack.acceptFrame _ _).settle = _
    rw [this]; rfl
  rw [h, State.settle_feed, State.settle_table]
  unfold State.takeDemand
  rw [if_pos (by decide)]
  dsimp only
  split <;> decide +kernel

/-- OwnDemandAccepted: in ON the last announced demand; a higher stage of its own frame is adopted in HAILING and LEAVING, and no other changes
anything there. -/
theorem witness_OwnDemandAccepted :
    IsOwn { rack with wire.tx := some (own (.demand (demandBody 40 0 0))) } (own (.demand (demandBody 40 0 0))) ∧
    (after (.demand 15 (demandBody 30 0 0)) { rack with wire.tx := some (own (.demand (demandBody 30 0 0))) }).line.lastAnnounced = 30 ∧
    (after (.demand 15 (demandBody 30 0 0)) { rack with wire.tx := some (own (.demand (demandBody 30 0 0))) }).commit.target = 30 ∧
    (after (.demand 15 (demandBody 30 1 50)) { inLeaving with wire.tx := some (own (.demand (demandBody 30 1 50))) }).feed.quiet =
      .running 200000 ∧
    (after (.demand 15 (demandBody 30 1 50)) { inHailing with wire.tx := some (own (.demand (demandBody 30 1 50))) }).feed =
      { inHailing.feed with stage := 1, quiet := .running 200000 } ∧
    (after (.demand 15 (demandBody 30 0 50)) { inHailing with wire.tx := some (own (.demand (demandBody 30 0 50))) }).feed = inHailing.feed ∧
    (after (.demand 15 (demandBody 30 0 0)) { inHailing with wire.tx := some (own (.demand (demandBody 30 0 0))) }).table = [] := by
  refine ⟨rfl, by decide +kernel⟩

/-- LeaveAccepted: a peer's removes its row; the own one ends LEAVING, in HAILING with EN high. -/
theorem witness_LeaveAccepted :
    Accepts rack { sender := 4, payload := .leave { tag := 7 } } ∧ FromPeer rack { sender := 4, payload := .leave { tag := 7 } } ∧
    (after (.leave 4 { tag := 7 }) rack).table.map Row.station = [15] ∧
    (after (.leave 15 { tag := 0x1234 }) { inLeaving with wire.tx := some (own (.leave { tag := 0x1234 })) }).line.link = .hailing := by
  refine ⟨⟨by decide, by decide⟩, ⟨by decide, by decide⟩, by decide +kernel⟩

/-- QueryAccepted: each item, present and absent; a fifth QUERY, and one in HAILING, leave no trace. -/
theorem witness_QueryAccepted :
    Accepts rack { sender := 20, payload := .query { target := 15, item := .row, index := 16 } } ∧
    FromPeer rack { sender := 20, payload := .query { target := 15, item := .row, index := 16 } } ∧
    (after (.query 20 { target := 15, item := .row, index := 16 }) rack).line.queue.reports =
      [{ requester := 20, content := .row 16 { state := .absent, sb := 0, sc := 0, demand := 0, grant := 0, frozen := 0, tag := 0, age := 0 } }] ∧
    (after (.query 20 { target := 15, item := .row, index := 15 }) rack).line.queue.reports =
      [{ requester := 20, content := .row 15
          { state := .active, sb := 17, sc := 3, demand := 40, grant := 40, frozen := 0, tag := 0x1234, age := 0 } }] ∧
    (after (.query 20 { target := 15, item := .reading, index := 3 }) rack).line.queue.reports =
      [{ requester := 20, content := .reading
          { channel := .diet, count := 0, ending := .complete, min := 0, max := 0, average := 0, last := 0 } }] ∧
    (after (.query 20 { target := 15, item := .reading, index := 1 })
      { rack with store.bayv := some (strapReading .bayv 4090 4110 4100) }).line.queue.reports =
      [{ requester := 20, content := .reading
          { channel := .bayv, count := 8, ending := .complete, min := 4090, max := 4110, average := 4100, last := 4100 } }] ∧
    (after (.query 20 { target := 15, item := .status, index := 200 }) rack).line.queue.reports.length = 1 ∧ TableInv rack ∧
    (after (.query 20 { target := 15, item := .status, index := 200 }) inHailing).line.queue.reports = [] ∧
    (after (.query 20 { target := 15, item := .status, index := 0 })
      { rack with line.queue.reports := List.replicate 4 { requester := 1, content := statusRecord .on 0 0 1 } }).line.queue.reports.length = 4 := by
  refine ⟨⟨by decide, by decide⟩, ⟨by decide, by decide⟩, by unfold TableInv; decide +kernel⟩

/-! ### EN, the timers and ALM -/

/-- The table of the rack with station 4's row in a state and of an age. -/
def aged (age : Nat) (status : RowStatus) : List Row := putRow 4 (some { rowOf 4 0 3 status 0 with age := age }) rack.table

/-- The station with its charge credit at its setting. -/
def charged : State := { rack with bay := { rack.bay with charge := { seconds := 14400, run := .running } } }

/-- EnableRises: from DOWN, and in LEAVING and in DOWN during the strap pass. EnableFalls: from ON, HAILING and MUTE. -/
theorem witness_enable_edges :
    (after .enRise inDown).line.link = .hailing ∧ (after .enRise inDown).feed.tracking = true ∧
    (after .enRise { inLeaving with pins := { en := false, almHigh := true } }).line.link = .leaving ∧ (after .enRise fresh).line.link = .down ∧
    (after .enFall rack).bay.phase = .hold .fast ∧ (after .enFall inHailing).line.link = .down ∧ (after .enFall inMute).line.link = .mute := by
  decide +kernel

/-- AnnouncingTimersExpire: each timer, in its link state and outside it; a change of 3 units is not due, one of 4 is. -/
theorem witness_AnnouncingTimersExpire :
    inCensus.line.timers.census = .running 0 ∧ (after .censusTimerExpiry inCensus).line.queue.demand = .waiting ∧
    (after .censusTimerExpiry { inCensus with line.queue.demand := .onLine false }).line.queue.demand = .onLine true ∧
    (after .heartbeatTimerExpiry spent).line.queue.demand = .waiting ∧
    (after .heartbeatTimerExpiry { inLeaving with line.timers.heartbeat := .running 0 }).line.queue.demand = .empty ∧
    (after .spacingTimerExpiry { rack with line.timers.spacing := .running 0, line.lastAnnounced := 37 }).line.queue.demand = .empty ∧
    (after .spacingTimerExpiry { rack with line.timers.spacing := .running 0, line.lastAnnounced := 44 }).line.queue.demand = .waiting := by
  decide +kernel

/-- LinkTimersExpire: isolation, the leave timer with EN low, the mute timer with EN high and low; and outside their link states. -/
theorem witness_LinkTimersExpire :
    spent.line.timers.isolation = .running 0 ∧ BayInv spent ∧ (after .isolationTimerExpiry spent).line.link = .hailing ∧
    (after .isolationTimerExpiry spent).line.isolated = true ∧ (after .isolationTimerExpiry spent).line.admitted = true ∧
    (after .leaveTimerExpiry { inLeaving with pins := { en := false, almHigh := true } }).line.link = .down ∧
    (after .muteTimerExpiry inMute).line.link = .hailing ∧
    (after .muteTimerExpiry { inMute with pins := { en := false, almHigh := true } }).line.link = .down ∧
    (after .muteTimerExpiry { rack with line.timers.mute := .running 0 }).line.timers.mute = .idle ∧
    (after .leaveTimerExpiry { rack with line.timers.leave := .running 0 }).line.link = .on ∧
    (after .isolationTimerExpiry { inMute with line.timers.isolation := .running 0 }).line.link = .mute :=
  ⟨by decide +kernel, bayInv_of (by decide +kernel), by decide +kernel⟩

/-- A charge whose credit stands at so many seconds. -/
def nearlyCharged (seconds : Rat) : State := { rack with bay.charge := { seconds := seconds, run := .running } }

/-- NothingToExpire: idle timers, timers one conversion short of their end, a credit below its setting, rows one conversion too young. -/
theorem witness_NothingToExpire :
    rack.commit.hold ≠ .running 0 ∧ rack.bay.precharge.run ≠ .running ∧
    rack.bay.charge.seconds + creditRate rack.cfg rack.commit.limit rack.bay / 40000 < 14400 ∧ findRow 9 rack.table = none ∧
    (after .muteTimerExpiry rack).line = rack.line ∧ (after .isolationTimerExpiry rack).line.link = .on ∧
    (after .censusTimerExpiry { inCensus with line.timers.census := .running 1 }).line.link = .census ∧
    (after .raiseHoldExpiry { holding with commit.hold := .running 1 }).commit.limit = 24 ∧
    (after .chargeCreditExpiry rack).bay.phase = .charging .fast ∧
    (after .chargeCreditExpiry (nearlyCharged (14400 - 1 / 39999))).bay.phase = .charging .fast ∧
    (after .rearmTimerExpiry { rack with feed.rearm := .running 2 }).feed.rearm = .running 2 ∧
    (after (.rowSilence 4) { rack with table := aged 59999 (.joining 4 false) }).table.map Row.name = [.joining, .active] ∧
    (after (.silentRowRelease 4) { rack with table := aged 199999 (.silent 4) }).table.length = 2 ∧
    (after (.disputedRowRelease 4) { rack with table := aged 200000 (.disputed 4 199999) }).table.length = 2 := by decide +kernel

/-- A DEMAND of station 4 that leaves 30 units for the own row. -/
def lowering : DemandBody := { demandBody 130 0 0 with tag := 7, sb := 0 }

/-- Events that fall together, the frame or the edge first (R15, R53, R76, R110): the expiry queued behind it does not happen. -/
theorem test_restarted_timers_do_not_expire :
    (after (.rowSilence 4) (after (.join 4 { tag := 7, sb := 0, sc := 3 }) { rack with table := aged 60000 (.joining 4 false) })).table.map
      Row.name = [.joining, .active] ∧
    (after (.disputedRowRelease 4) (after (.leave 4 { tag := 7 }) { rack with table := aged 200000 (.disputed 4 200000) })).table.length = 2 ∧
    (after .raiseHoldExpiry (after (.demand 4 lowering) holding)).commit = { target := 30, limit := 24, hold := .running 10000 } ∧
    (after (.demand 4 lowering) (after .raiseHoldExpiry holding)).commit = { target := 30, limit := 30, hold := .idle } ∧
    (after .isolationTimerExpiry (after (.demand 15 (demandBody 40 0 0))
      { spent with wire.tx := some (own (.demand (demandBody 40 0 0))) })).line.link = .on ∧
    (after .quietTimerExpiry (after .almFallingEdge { rack with feed.quiet := .running 0, feed.stage := 1 })).feed.stage = 2 := by
  decide +kernel

/-- AlarmEdges: in ON the clamp, the stage and its recompute; in DOWN the level alone; the rising edge starts the hold. -/
theorem witness_AlarmEdges :
    (after .almFallingEdge rack).commit.limit = 4 ∧ (after .almFallingEdge rack).feed.stage = 1 ∧
    (after .almFallingEdge rack).feed.low = .running 800 ∧ (after .almFallingEdge inDown).feed = inDown.feed ∧
    (after .almRisingEdge { rack with commit.limit := 4, pins := { en := true, almHigh := false } }).commit.hold = .running 10000 ∧
    (after .almRisingEdge inDown).feed.quiet = .idle := by decide +kernel

/-- FeedTimersExpire: ALM stuck; the quiet timer at stages 2, 1 and 0, and with ALM low. -/
theorem witness_FeedTimersExpire :
    (after .lowTimerExpiry { rack with feed.low := .running 0 }).feed.stuck = true ∧
    (after .lowTimerExpiry { rack with feed.low := .running 0 }).feed.stage = 2 ∧
    (after .quietTimerExpiry { rack with feed.quiet := .running 0, feed.stage := 2 }).feed.quiet = .running 400000 ∧
    (after .quietTimerExpiry { rack with feed.quiet := .running 0, feed.stage := 1 }).feed.quiet = .idle ∧
    (after .quietTimerExpiry { rack with feed.quiet := .running 0, feed.stage := 1 }).feed.stage = 0 ∧
    (after .quietTimerExpiry { rack with feed.quiet := .running 0 }).feed.quiet = .idle ∧
    (after .quietTimerExpiry { rack with feed.quiet := .running 0, feed.stage := 2, pins.almHigh := false }).feed.stage = 2 := by decide +kernel

/-- RowsExpire: a JOINING row falls SILENT with its floor frozen; SILENT and DISPUTED rows are released; the wrong event does nothing. -/
theorem witness_RowsExpire :
    findRow 4 (aged 60000 (.joining 4 false)) = some { rowOf 4 0 3 (.joining 4 false) 0 with age := 60000 } ∧
    (after (.rowSilence 4) { rack with table := aged 60000 (.joining 4 false) }).table.map Row.frozen = [4, 0] ∧
    (after (.rowSilence 4) { rack with table := aged 60000 (.joining 4 false) }).table.map Row.age = [60000, 0] ∧
    (after (.silentRowRelease 4) { rack with table := aged 200000 (.joining 4 false) }).table = aged 200000 (.joining 4 false) ∧
    (after (.silentRowRelease 4) { rack with table := aged 200000 (.silent 4) }).table.length = 1 ∧
    (after (.disputedRowRelease 4) { rack with table := aged 0 (.disputed 4 200000) }).table.length = 1 := by
  decide +kernel

/-- CreditsExpire: PRECHARGE_TIMEOUT, and CHARGE_TIMEOUT with the full-at-timeout flag set and clear. -/
theorem witness_CreditsExpire :
    BayInv charged ∧ charged.bay.charge.run = .running ∧
    (14400 : Rat) ≤ charged.bay.charge.seconds + creditRate charged.cfg charged.commit.limit charged.bay / 40000 ∧
    (after .chargeCreditExpiry (nearlyCharged (14400 - 1 / 40000))).bay.charge = { seconds := 14400, run := .stopped } ∧
    (after .chargeCreditExpiry charged).bay.phase = .fault (.chargeTimeout false) ∧
    (after .chargeCreditExpiry { charged with store.bayv := some (strapReading .bayv 4100 4100 4100) }).bay.phase =
      .fault (.chargeTimeout true) ∧
    (after .prechargeCreditExpiry { rack with bay := { rack.bay with
      phase := .charging .precharge, localDemand := 4, charge := .zero, precharge := { seconds := 1800, run := .running } } }).bay.phase =
      .fault .prechargeTimeout :=
  ⟨bayInv_of (by decide +kernel), by decide +kernel⟩

/-- A second FEEDV record about to end LIMIT, with one conversion of the re-arm time to come. -/
def droopAtRearm : State :=
  { rack with scan.pos := .p1, scan.acc := .start, feed.droop := 1, feed.rearm := .running 1 }

/-- PRECHARGE one conversion below its timeout, in a BAYV cycle with one sample to come. -/
def endingPrecharge : State :=
  { rack with
    bay := { rack.bay with
      phase := .charging .precharge, localDemand := 4, charge := .zero, precharge := { seconds := 1800 - 1 / 40000, run := .running } }
    scan.acc := { count := 7, min := 3000, max := 3000, sum := 21000, last := 3000 } }

/-- R148, a credit that reaches its setting in the conversion that ends a BAYV cycle at 3,000 mV: the timeout first, FAULT; the record first, FAST, and
no timeout. A droop event in the conversion in which the re-arm time ends: the expiry first, ALM is driven (R101). -/
theorem test_timeout_and_record :
    (after (.conversion ⟨3000, false⟩) (after .prechargeCreditExpiry endingPrecharge)).bay.phase = .fault .prechargeTimeout ∧
    (after .prechargeCreditExpiry (after (.conversion ⟨3000, false⟩) endingPrecharge)).bay.phase = .charging .fast ∧
    (after (.conversion ⟨4000, false⟩) (after .rearmTimerExpiry droopAtRearm)).drivesAlm = true ∧
    (after .rearmTimerExpiry (after (.conversion ⟨4000, false⟩) droopAtRearm)).drivesAlm = false := by decide +kernel

/-- StatStepAdvances: from the last interval to the first, and in off. -/
theorem witness_StatStepAdvances :
    (after .statPatternStep { rack with stat.left := .running 0 }).stat = { pattern := .blink1, position := 1, left := .running 20000 } ∧
    (after .statPatternStep { inBarred with stat := { statAt .threePulses 5 with left := .running 0 } }).stat = statAt .threePulses 0 ∧
    rack.stat.driven = true ∧ inHailing.stat.driven = false ∧ (statAt .twoPulses 3).driven = false ∧ (statAt .steady 0).driven = true ∧
    (after .statPatternStep rack).stat = rack.stat ∧ (after .statPatternStep inHailing).stat = inHailing.stat := by decide +kernel

/-- ALM_DRIVE_END and REARM_TIMER_EXPIRY. -/
theorem test_drive_end_and_rearm :
    ({ rack with feed.drive := .running 0 } : State).drivesAlm = true ∧
    (after .almDriveEnd { rack with feed.drive := .running 0 }).drivesAlm = false ∧
    (after .rearmTimerExpiry { rack with feed.rearm := .running 1 }).feed.rearm = .idle ∧
    (after .rearmTimerExpiry { rack with feed.rearm := .running 0 }).feed.rearm = .idle := by decide +kernel

theorem witness_StepRunsFront :
    ({ rack with pending := [.enFall] } : State).pending = .enFall :: [] ∧ rack.pending = [] ∧
    Instr.shlIdle ≠ .powerOn ∧ Instr.shlIdle ≠ .supplyMonitorReset ∧ rack.scan.pos ≠ .s3 := by decide

end Sys2Proof.Tests
end

section
/-! SUPPORT. The share rule from its parts: what it writes into a row, what the floor visit gives and leaves, what the rounds of a class hand
out, and how the claims find their rows again. -/

namespace Sys2Proof.Machine

-- Proofs in parallel threads reserve more address space than the check's memory limit admits.
set_option Elab.async false

/-! ### What a recompute writes into a row -/

section SetGrant

variable (r : Row) (g : Nat) (m : Bool)

@[simp] theorem Row.setGrant_live : (r.setGrant g m).live = r.live := by
  obtain ⟨_, status⟩ := r; cases status <;> rfl
@[simp] theorem Row.setGrant_isActive : (r.setGrant g m).isActive = r.isActive := by
  obtain ⟨_, status⟩ := r; cases status <;> rfl
@[simp] theorem Row.setGrant_station : (r.setGrant g m).station = r.station := by
  obtain ⟨_, status⟩ := r; cases status <;> rfl
@[simp] theorem Row.setGrant_demand : (r.setGrant g m).demand = r.demand := by
  obtain ⟨_, status⟩ := r; cases status <;> rfl
@[simp] theorem Row.setGrant_classNo : (r.setGrant g m).classNo = r.classNo := by
  obtain ⟨_, status⟩ := r; cases status <;> rfl

end SetGrant

theorem Row.setGrant_grant {r : Row} (h : r.live = true) (g : Nat) (m : Bool) : (r.setGrant g m).grant = g := by
  obtain ⟨_, status⟩ := r
  cases status with
  | joining | active => rfl
  | silent | disputed => cases h

theorem Row.setGrant_starved {r : Row} (h : r.live = true) (g : Nat) (m : Bool) : (r.setGrant g m).starved = m := by
  obtain ⟨_, status⟩ := r
  cases status with
  | joining | active => rfl
  | silent | disputed => cases h

/-- A reserved row is left alone (R24). -/
theorem Row.setGrant_of_not_live {r : Row} (h : r.live = false) (g : Nat) (m : Bool) : r.setGrant g m = r := by
  obtain ⟨_, status⟩ := r
  cases status with
  | joining | active => cases h
  | silent | disputed => rfl

theorem Row.live_of_isActive {r : Row} (h : r.isActive = true) : r.live = true := by
  obtain ⟨_, status⟩ := r
  cases status with
  | active => rfl
  | joining | silent | disputed => cases h

theorem Row.live_of_starved {r : Row} (h : r.starved = true) : r.live = true := by
  obtain ⟨_, status⟩ := r
  cases status with
  | joining | active => rfl
  | silent | disputed => cases h

theorem Row.frozen_of_live {r : Row} (h : r.live = true) : r.frozen = 0 := by
  obtain ⟨_, status⟩ := r
  cases status with
  | joining | active => rfl
  | silent | disputed => cases h

/-- The class is one of four (R2). -/
theorem Row.classNo_lt (r : Row) : r.classNo < 4 := by
  have := r.sb.isLt
  simp only [Row.classNo, classOf]; omega

/-! ### Capacity -/

theorem capacityBasis_of_isBasis {rows : List Row} {basis : Nat} (h : IsBasis rows basis) : capacityBasis rows = some basis := by
  obtain ⟨⟨r, hr, hlive, hbasis⟩, hleast⟩ := h
  simp only [capacityBasis, liveRows, List.min?_eq_some_iff, List.mem_map, List.mem_filter]
  refine ⟨⟨r, ⟨hr, hlive⟩, hbasis.symm⟩, ?_⟩
  rintro _ ⟨q, ⟨hq, hqlive⟩, rfl⟩
  exact hleast q hq hqlive

theorem effectiveCapacity_eq_usable (basis stage : Nat) : effectiveCapacity basis stage = usable basis stage := by
  match stage with
  | 0 | 1 | _ + 2 => rfl

/-- Reserved rows alone hold a frozen grant (R2, R28). -/
theorem frozenReservation_eq (rows : List Row) :
    frozenReservation rows = ((rows.filter fun r => !r.live).map Row.frozen).sum := by
  induction rows with
  | nil => rfl
  | cons r rs ih =>
    simp only [frozenReservation] at ih
    cases h : r.live with
    | true => simp [frozenReservation, h, ih, Row.frozen_of_live h]
    | false => simp [frozenReservation, h, ih]

/-! ### The floor order (R29) -/

/-- Row a is visited before row b (R29). -/
def Row.Before (a b : Row) : Prop := a.classNo < b.classNo ∨ (a.classNo = b.classNo ∧ a.station < b.station)

theorem Row.not_before_self (r : Row) : ¬ r.Before r := by unfold Row.Before; omega

theorem Row.Before.not_before {a b : Row} (h : a.Before b) : ¬ b.Before a := by unfold Row.Before at h ⊢; omega

/-- Taking a list's elements class by class takes each of them once. -/
theorem flatMap_range_filter_perm {α : Type} (key : α → Nat) (n : Nat) (l : List α) :
    ((List.range n).flatMap fun k => l.filter fun x => key x == k).Perm (l.filter fun x => decide (key x < n)) := by
  induction n with
  | zero => simp
  | succ n ih =>
    have below : (l.filter fun x => decide (key x < n)) =
        (l.filter fun x => decide (key x < n + 1)).filter fun x => decide (key x < n) := by
      rw [List.filter_filter]
      refine List.filter_congr fun x _ => Bool.eq_iff_iff.2 ?_
      simp only [Bool.and_eq_true, decide_eq_true_eq]; omega
    have at_n : (l.filter fun x => key x == n) =
        (l.filter fun x => decide (key x < n + 1)).filter fun x => !decide (key x < n) := by
      rw [List.filter_filter]
      refine List.filter_congr fun x _ => Bool.eq_iff_iff.2 ?_
      simp only [beq_iff_eq, Bool.and_eq_true, Bool.not_eq_true', decide_eq_false_iff_not, decide_eq_true_eq]; omega
    rw [List.range_succ, List.flatMap_append, List.flatMap_singleton]
    refine (ih.append_right _).trans ?_
    rw [below, at_n]
    exact List.filter_append_perm _ _

theorem flatMap_range_filter_perm_self {α : Type} {key : α → Nat} {n : Nat} (l : List α) (h : ∀ x ∈ l, key x < n) :
    ((List.range n).flatMap fun k => l.filter fun x => key x == k).Perm l := by
  have all : (l.filter fun x => decide (key x < n)) = l := by simpa using h
  exact (flatMap_range_filter_perm key n l).trans (.of_eq all)

/-- The floor order holds every live row once. -/
theorem floorOrder_perm (rows : List Row) : (floorOrder rows).Perm (liveRows rows) :=
  flatMap_range_filter_perm_self _ fun r _ => r.classNo_lt

theorem floorOrder_pairwise {rows : List Row} (h : rows.Pairwise fun a b => a.station < b.station) :
    (floorOrder rows).Pairwise Row.Before := by
  rw [floorOrder, List.pairwise_flatMap]
  constructor
  · intro c _
    refine ((h.filter Row.live).filter _).imp_of_mem fun {a b} ha hb hlt => .inr ⟨?_, hlt⟩
    simp only [List.mem_filter, beq_iff_eq] at ha hb
    rw [ha.2, hb.2]
  · refine List.pairwise_lt_range.imp fun {c d} hcd a ha b hb => .inl ?_
    simp only [List.mem_filter, beq_iff_eq] at ha hb
    rw [ha.2, hb.2]; exact hcd

/-- Along a list in floor order, what holds of every earlier and later element holds of every two that are in that order. -/
theorem forall_of_pairwise_before {α : Type} {row : α → Row} {S : α → α → Prop} {l : List α}
    (order : l.Pairwise fun a b => (row a).Before (row b)) (h : l.Pairwise S) :
    ∀ a ∈ l, ∀ b ∈ l, (row a).Before (row b) → S a b := by
  induction l with
  | nil => intro a ha; cases ha
  | cons x xs ih =>
    obtain ⟨hx, order⟩ := List.pairwise_cons.1 order
    obtain ⟨hS, h⟩ := List.pairwise_cons.1 h
    rintro a ha b hb hab
    rcases List.mem_cons.1 ha with rfl | ha
    · rcases List.mem_cons.1 hb with rfl | hb
      · exact absurd hab (Row.not_before_self _)
      · exact hS b hb
    · rcases List.mem_cons.1 hb with hbx | hb
      · exact absurd hab (hbx ▸ hx a ha).not_before
      · exact ih order h a ha b hb hab

/-! ### The floor visit (R29, R30) -/

/-- What a claim comes to: floor and excess (R34). -/
def Claim.grant (c : Claim) : Nat := c.floor + c.excess

/-- A claim as the floor visit makes it: 4 units or the starved mark, and no excess yet (R29). -/
def Claim.Fresh (c : Claim) : Prop := c.excess = 0 ∧ c.floor = if c.starved then 0 else floorUnits

theorem giveFloors_rows (rs : List Row) (n : Nat) : (giveFloors rs n).1.map Claim.row = rs := by
  fun_induction giveFloors rs n with
  | case1 => rfl
  | case2 r rs n _ rest ih | case3 r rs n _ rest ih => exact congrArg (r :: ·) ih

theorem giveFloors_fresh (rs : List Row) (n : Nat) : ∀ c ∈ (giveFloors rs n).1, c.Fresh := by
  fun_induction giveFloors rs n with
  | case1 => simp
  | case2 r rs n _ rest ih | case3 r rs n _ rest ih => exact List.forall_mem_cons.2 ⟨⟨rfl, rfl⟩, ih⟩

/-- Every unit is a floor or is left. -/
theorem giveFloors_total (rs : List Row) (n : Nat) :
    ((giveFloors rs n).1.map Claim.floor).sum + (giveFloors rs n).2 = n := by
  fun_induction giveFloors rs n with
  | case1 => simp
  | case2 r rs n h rest ih => simp only [List.map_cons, List.sum_cons, rest]; omega
  | case3 r rs n _ rest ih => simpa [rest] using ih

/-- With fewer than 4 units every row is starved (R30). -/
theorem giveFloors_starved_of_lt (rs : List Row) {n : Nat} (h : n < floorUnits) : ∀ c ∈ (giveFloors rs n).1, c.starved = true := by
  fun_induction giveFloors rs n with
  | case1 => simp
  | case2 => omega
  | case3 r rs n _ rest ih => exact List.forall_mem_cons.2 ⟨rfl, ih h⟩

/-- With 4 units for every row none is starved (R30). -/
theorem giveFloors_not_starved (rs : List Row) (n : Nat) (h : floorUnits * rs.length ≤ n) :
    ∀ c ∈ (giveFloors rs n).1, c.starved = false := by
  fun_induction giveFloors rs n with
  | case1 => simp
  | case2 r rs n _ rest ih =>
    rw [List.length_cons, Nat.mul_succ] at h
    exact List.forall_mem_cons.2 ⟨rfl, ih (by omega)⟩
  | case3 r rs n hlt rest ih =>
    rw [List.length_cons, Nat.mul_succ] at h
    omega

/-- A starved row leaves less than a floor. -/
theorem giveFloors_left_lt_of_starved (rs : List Row) (n : Nat) :
    ∀ c ∈ (giveFloors rs n).1, c.starved = true → (giveFloors rs n).2 < floorUnits := by
  fun_induction giveFloors rs n with
  | case1 => simp
  | case2 r rs n _ rest ih => exact List.forall_mem_cons.2 ⟨nofun, ih⟩
  | case3 r rs n hlt rest ih =>
    have total : _ + rest.2 = n := giveFloors_total rs n
    intro _ _ _
    change rest.2 < floorUnits
    omega

/-- From the first starved row on, every row is starved. -/
theorem giveFloors_starved_pairwise (rs : List Row) (n : Nat) :
    (giveFloors rs n).1.Pairwise fun c d => c.starved = true → d.starved = true := by
  fun_induction giveFloors rs n with
  | case1 => exact .nil
  | case2 r rs n _ rest ih => exact .cons (fun _ _ => nofun) ih
  | case3 r rs n hlt rest ih => exact .cons (fun d hd _ => giveFloors_starved_of_lt rs (by omega) d hd) ih

/-! ### Excess handed out (R31 to R33) -/

/-- What the floor visit settles of a claim, and no round of excess changes. -/
def Claim.settled (c : Claim) : Row × Nat × Bool := (c.row, c.floor, c.starved)

@[simp] theorem Claim.want_withExcess (c : Claim) (e : Nat) : Claim.want { c with excess := e } = c.want := rfl
@[simp] theorem Claim.settled_withExcess (c : Claim) (e : Nat) : Claim.settled { c with excess := e } = c.settled := rfl

theorem Claim.want_of_starved {c : Claim} (h : c.starved = true) : c.want = 0 := by simp [Claim.want, h]

@[simp] theorem excessTotal_nil : excessTotal [] = 0 := rfl
@[simp] theorem excessTotal_cons (c : Claim) (cs : List Claim) : excessTotal (c :: cs) = c.excess + excessTotal cs := by
  simp [excessTotal]
@[simp] theorem excessTotal_append (cs ds : List Claim) : excessTotal (cs ++ ds) = excessTotal cs + excessTotal ds := by
  simp [excessTotal]

/-- `left` units are offered to the claims `cs` as excess: they become `ds`, no claim is raised above its want, and `rest` is what is
not taken. -/
structure Handed (cs : List Claim) (left : Nat) (ds : List Claim) (rest : Nat) : Prop where
  settled : ds.map Claim.settled = cs.map Claim.settled
  within : (∀ c ∈ cs, c.excess ≤ c.want) → ∀ d ∈ ds, d.excess ≤ d.want
  total : excessTotal ds + rest = excessTotal cs + left
  rest_le : rest ≤ left

theorem Handed.refl (cs : List Claim) (left : Nat) : Handed cs left cs left := ⟨rfl, id, rfl, le_rfl⟩

theorem Handed.trans {cs ds es : List Claim} {left mid rest : Nat} (h : Handed cs left ds mid) (h' : Handed ds mid es rest) :
    Handed cs left es rest :=
  ⟨h'.settled.trans h.settled, fun hcs => h'.within (h.within hcs), h'.total.trans h.total, h'.rest_le.trans h.rest_le⟩

theorem Handed.append {cs cs' ds ds' : List Claim} {left mid rest : Nat} (h : Handed cs left ds mid) (h' : Handed cs' mid ds' rest) :
    Handed (cs ++ cs') left (ds ++ ds') rest where
  settled := by simp [h.settled, h'.settled]
  within hcs d hd := by
    rcases List.mem_append.1 hd with hd | hd
    · exact h.within (fun c hc => hcs c (List.mem_append_left _ hc)) d hd
    · exact h'.within (fun c hc => hcs c (List.mem_append_right _ hc)) d hd
  total := by
    have := h.total; have := h'.total
    simp only [excessTotal_append]; omega
  rest_le := h'.rest_le.trans h.rest_le

/-! ### One even round (R32) -/

@[simp] theorem evenShare_settled (s : Nat) (c : Claim) : (evenShare s c).settled = c.settled := by
  unfold evenShare; split <;> rfl

theorem evenShare_within (s : Nat) {c : Claim} (h : c.excess ≤ c.want) : (evenShare s c).excess ≤ (evenShare s c).want := by
  unfold evenShare
  split
  · simp only [Claim.want_withExcess]; omega
  · exact h

theorem unsatisfied_of_evenShare {s : Nat} {c : Claim} (h : (evenShare s c).unsatisfied = true) : c.unsatisfied = true := by
  unfold evenShare at h
  split at h <;> assumption

/-- A round gives at most s, and only to the unsatisfied. -/
theorem evenShare_excess_le (s : Nat) (c : Claim) : (evenShare s c).excess ≤ c.excess + if c.unsatisfied then s else 0 := by
  unfold evenShare
  split
  · exact Nat.add_le_add_left (min_le_left _ _) _
  · exact le_rfl

/-- A claim that a round leaves unsatisfied has received s units. -/
theorem le_evenShare_excess (s : Nat) (c : Claim) :
    (c.excess + if (evenShare s c).unsatisfied then s else 0) ≤ (evenShare s c).excess := by
  cases h : (evenShare s c).unsatisfied with
  | true =>
    have given : evenShare s c = { c with excess := c.excess + min s (c.want - c.excess) } := if_pos (unsatisfied_of_evenShare h)
    simp only [given, Claim.unsatisfied, Claim.want_withExcess, decide_eq_true_eq] at h
    simp only [given, if_true]; omega
  | false =>
    simp only [evenShare, Bool.false_eq_true, if_false]
    split <;> simp

theorem countP_evenShare_le (s : Nat) (cs : List Claim) :
    (cs.map (evenShare s)).countP Claim.unsatisfied ≤ cs.countP Claim.unsatisfied := by
  rw [List.countP_map]
  exact List.countP_mono_left fun _ _ => unsatisfied_of_evenShare

/-- What a round hands out, from above by the claims unsatisfied before it. -/
theorem excessTotal_evenShare_le (s : Nat) (cs : List Claim) :
    excessTotal (cs.map (evenShare s)) ≤ excessTotal cs + cs.countP Claim.unsatisfied * s := by
  induction cs with
  | nil => simp
  | cons c cs ih =>
    have := evenShare_excess_le s c
    simp only [List.map_cons, excessTotal_cons, List.countP_cons, Nat.add_mul, ite_mul, one_mul, zero_mul] at ih ⊢
    omega

/-- What a round hands out, from below by the claims unsatisfied after it. -/
theorem le_excessTotal_evenShare (s : Nat) (cs : List Claim) :
    excessTotal cs + (cs.map (evenShare s)).countP Claim.unsatisfied * s ≤ excessTotal (cs.map (evenShare s)) := by
  induction cs with
  | nil => simp
  | cons c cs ih =>
    have := le_evenShare_excess s c
    simp only [List.map_cons, excessTotal_cons, List.countP_cons, Nat.add_mul, ite_mul, one_mul, zero_mul] at ih ⊢
    omega

/-- A round of s units where every unsatisfied claim can have as many. -/
theorem handed_evenShare {s left : Nat} {cs : List Claim} (h : cs.countP Claim.unsatisfied * s ≤ left) :
    Handed cs left (cs.map (evenShare s)) (left - (excessTotal (cs.map (evenShare s)) - excessTotal cs)) where
  settled := by simp
  within hcs := List.forall_mem_map.2 fun c hc => evenShare_within s (hcs c hc)
  total := by
    have := excessTotal_evenShare_le s cs
    have := le_excessTotal_evenShare s cs
    omega
  rest_le := Nat.sub_le _ _

/-! ### The odd units (R33) -/

theorem oddUnits_settled (cs : List Claim) (left : Nat) : (oddUnits cs left).map Claim.settled = cs.map Claim.settled := by
  fun_induction oddUnits cs left <;> simp_all

theorem oddUnits_within (cs : List Claim) (left : Nat) (h : ∀ c ∈ cs, c.excess ≤ c.want) :
    ∀ d ∈ oddUnits cs left, d.excess ≤ d.want := by
  fun_induction oddUnits cs left with
  | case1 => simp
  | case2 c cs left hc ih =>
    obtain ⟨-, hcs⟩ := List.forall_mem_cons.1 h
    simp only [Claim.unsatisfied, Bool.and_eq_true, decide_eq_true_eq] at hc
    exact List.forall_mem_cons.2 ⟨hc.1, ih hcs⟩
  | case3 c cs left _ ih =>
    obtain ⟨hc, hcs⟩ := List.forall_mem_cons.1 h
    exact List.forall_mem_cons.2 ⟨hc, ih hcs⟩

/-- Fewer units than unsatisfied claims are all handed out. -/
theorem excessTotal_oddUnits (cs : List Claim) (left : Nat) (h : left ≤ cs.countP Claim.unsatisfied) :
    excessTotal (oddUnits cs left) = excessTotal cs + left := by
  fun_induction oddUnits cs left with
  | case1 => simp_all
  | case2 c cs left hc ih =>
    simp only [Bool.and_eq_true, decide_eq_true_eq] at hc
    simp only [List.countP_cons, hc.1, if_true] at h
    simp only [excessTotal_cons, ih (by omega)]; omega
  | case3 c cs left hc ih =>
    simp only [Bool.and_eq_true, decide_eq_true_eq] at hc
    have : left ≤ cs.countP Claim.unsatisfied := by
      rw [List.countP_cons] at h
      split at h
      next unsat => have : ¬ 0 < left := fun pos => hc ⟨unsat, pos⟩; omega
      next => exact h
    simp only [excessTotal_cons, ih this]; omega

theorem handed_oddUnits {cs : List Claim} {left : Nat} (h : left ≤ cs.countP Claim.unsatisfied) : Handed cs left (oddUnits cs left) 0 :=
  ⟨oddUnits_settled cs left, oddUnits_within cs left, excessTotal_oddUnits cs left h, Nat.zero_le _⟩

/-! ### The rounds of a class, and the classes (R31, R32) -/

theorem classRounds_handed (fuel : Nat) (cs : List Claim) (left : Nat) :
    Handed cs left (classRounds fuel cs left).1 (classRounds fuel cs left).2 := by
  fun_induction classRounds fuel cs left with
  | case1 | case2 => exact .refl _ _
  | case3 fuel cs left n hn s hs =>
    have := (Nat.div_eq_zero_iff.1 hs)
    exact handed_oddUnits (by omega)
  | case4 fuel cs left n hn s hs cs' ih => exact (handed_evenShare (Nat.mul_div_le _ _)).trans ih

/-- Fewer units than unsatisfied claims are used up at once (R33). -/
theorem classRounds_rest_of_lt {cs : List Claim} {left : Nat} (h : left < cs.countP Claim.unsatisfied) {fuel : Nat} (hfuel : 0 < fuel) :
    (classRounds fuel cs left).2 = 0 := by
  obtain ⟨fuel, rfl⟩ := Nat.exists_eq_add_one.2 hfuel
  simp only [classRounds]
  split
  next done => simp only; omega
  next => simp [Nat.div_eq_of_lt h]

/-- One round for each unsatisfied claim and one more use up the units or satisfy the claims. A round that satisfies no claim leaves fewer
units than unsatisfied claims, which the next one hands out one by one. -/
theorem classRounds_exhausts (fuel : Nat) (cs : List Claim) (left : Nat) (h : cs.countP Claim.unsatisfied < fuel) :
    (classRounds fuel cs left).2 = 0 ∨ ∀ d ∈ (classRounds fuel cs left).1, d.unsatisfied = false := by
  fun_induction classRounds fuel cs left with
  | case1 => omega
  | case2 fuel cs left n hn =>
    refine hn.symm.imp id fun hn => ?_
    simpa [n, List.countP_eq_zero] using hn
  | case3 => exact .inl rfl
  | case4 fuel cs left n hn s hs cs' ih =>
    have mono : cs'.countP Claim.unsatisfied ≤ n := countP_evenShare_le s cs
    rcases mono.lt_or_eq with fewer | same
    · exact ih (by omega)
    · have full : excessTotal cs + cs'.countP Claim.unsatisfied * s ≤ excessTotal cs' := le_excessTotal_evenShare s cs
      have quotient : left < n * (s + 1) := Nat.lt_mul_div_succ left (by omega)
      rw [same] at full
      rw [Nat.mul_succ] at quotient
      exact .inl (classRounds_rest_of_lt (by omega) (by omega))

/-- The claims of the classes in `ks`, class by class. -/
def byClass (ks : List Nat) (cs : List Claim) : List Claim := ks.flatMap fun k => cs.filter fun c => c.row.classNo == k

theorem shareClasses_handed (ks : List Nat) (cs : List Claim) (left : Nat) :
    ∃ rest, Handed (byClass ks cs) left (shareClasses ks cs left) rest ∧
      (rest = 0 ∨ ∀ d ∈ shareClasses ks cs left, d.unsatisfied = false) := by
  induction ks generalizing left with
  | nil => exact ⟨left, .refl _ _, .inr (by simp [shareClasses])⟩
  | cons k ks ih =>
    let mine := cs.filter fun c => c.row.classNo == k
    have here := classRounds_handed (mine.length + 1) mine left
    have done := classRounds_exhausts (mine.length + 1) mine left (Nat.lt_succ_of_le List.countP_le_length)
    obtain ⟨rest, there, satisfied⟩ := ih (classRounds (mine.length + 1) mine left).2
    refine ⟨rest, here.append there, ?_⟩
    rcases satisfied with none_left | later
    · exact .inl none_left
    · rcases done with none_left | here'
      · exact .inl (Nat.le_zero.1 (there.rest_le.trans_eq none_left))
      · exact .inr (List.forall_mem_append.2 ⟨here', later⟩)

/-! ### The claims of a recompute (R34) -/

/-- What each recompute's claims are made from: the claims of the floor visit, over the live rows in floor order. -/
abbrev floorClaims (rows : List Row) (stage basis : Nat) : List Claim × Nat :=
  giveFloors (floorOrder rows) (startingRemainder rows stage basis)

theorem byClass_perm (cs : List Claim) : (byClass (List.range 4) cs).Perm cs :=
  flatMap_range_filter_perm_self cs fun c _ => c.row.classNo_lt

theorem allClaims_handed (rows : List Row) (stage basis : Nat) :
    ∃ rest, Handed (byClass (List.range 4) (floorClaims rows stage basis).1) (floorClaims rows stage basis).2
        (allClaims rows stage basis) rest ∧
      (rest = 0 ∨ ∀ d ∈ allClaims rows stage basis, d.unsatisfied = false) :=
  shareClasses_handed _ _ _

theorem allClaims_settled_perm (rows : List Row) (stage basis : Nat) :
    ((allClaims rows stage basis).map Claim.settled).Perm ((floorClaims rows stage basis).1.map Claim.settled) := by
  obtain ⟨_, handed, -⟩ := allClaims_handed rows stage basis
  exact handed.settled ▸ (byClass_perm _).map _

/-- Every live row has one claim. -/
theorem allClaims_rows_perm (rows : List Row) (stage basis : Nat) :
    ((allClaims rows stage basis).map Claim.row).Perm (liveRows rows) := by
  have perm := (allClaims_settled_perm rows stage basis).map Prod.fst
  simp only [List.map_map] at perm
  refine (perm.trans (.of_eq ?_)).trans (floorOrder_perm rows)
  exact giveFloors_rows _ _

theorem live_of_mem_allClaims {rows : List Row} {stage basis : Nat} {c : Claim} (h : c ∈ allClaims rows stage basis) :
    c.row.live = true := by
  have := (allClaims_rows_perm rows stage basis).subset (List.mem_map_of_mem h)
  exact (List.mem_filter.1 this).2

/-- Each claim goes back to one of the floor visit. -/
theorem exists_floorClaim {rows : List Row} {stage basis : Nat} {c : Claim} (h : c ∈ allClaims rows stage basis) :
    ∃ f ∈ (floorClaims rows stage basis).1, f.row = c.row ∧ f.floor = c.floor ∧ f.starved = c.starved := by
  obtain ⟨f, hf, same⟩ := List.mem_map.1 ((allClaims_settled_perm rows stage basis).subset (List.mem_map_of_mem h))
  exact ⟨f, hf, by simpa [Claim.settled] using same⟩

theorem allClaims_floor {rows : List Row} {stage basis : Nat} {c : Claim} (h : c ∈ allClaims rows stage basis) :
    c.floor = if c.starved then 0 else floorUnits := by
  obtain ⟨f, hf, -, hfloor, hstarved⟩ := exists_floorClaim h
  obtain ⟨-, floor⟩ := giveFloors_fresh _ _ f hf
  rwa [← hfloor, ← hstarved]

theorem byClass_floorClaims_excess {rows : List Row} {stage basis : Nat} {c : Claim}
    (h : c ∈ byClass (List.range 4) (floorClaims rows stage basis).1) : c.excess = 0 :=
  (giveFloors_fresh _ _ c ((byClass_perm _).subset h)).1

/-- No claim has more excess than it wants (R31). -/
theorem allClaims_excess_le {rows : List Row} {stage basis : Nat} {c : Claim} (h : c ∈ allClaims rows stage basis) :
    c.excess ≤ c.want := by
  obtain ⟨_, handed, -⟩ := allClaims_handed rows stage basis
  exact handed.within (fun f hf => (byClass_floorClaims_excess hf).trans_le (Nat.zero_le _)) c h

/-- Floors and excess together are the starting remainder but for what is left in the end, which is no more than the floor visit leaves, and
nothing where a claim is unsatisfied. -/
theorem allClaims_total (rows : List Row) (stage basis : Nat) :
    ∃ rest, ((allClaims rows stage basis).map Claim.grant).sum + rest = startingRemainder rows stage basis ∧
      rest ≤ (floorClaims rows stage basis).2 ∧ (rest = 0 ∨ ∀ c ∈ allClaims rows stage basis, c.unsatisfied = false) := by
  obtain ⟨rest, handed, satisfied⟩ := allClaims_handed rows stage basis
  have floors : ((allClaims rows stage basis).map Claim.floor).sum = ((floorClaims rows stage basis).1.map Claim.floor).sum := by
    have perm := (allClaims_settled_perm rows stage basis).map fun x => x.2.1
    simp only [List.map_map] at perm
    exact perm.sum_nat
  have fresh : excessTotal (byClass (List.range 4) (floorClaims rows stage basis).1) = 0 :=
    List.sum_eq_zero (List.forall_mem_map.2 fun c hc => byClass_floorClaims_excess hc)
  have grants : ((allClaims rows stage basis).map Claim.grant).sum =
      ((allClaims rows stage basis).map Claim.floor).sum + excessTotal (allClaims rows stage basis) := List.sum_map_add
  have total : ((floorClaims rows stage basis).1.map Claim.floor).sum + (floorClaims rows stage basis).2 =
      startingRemainder rows stage basis := giveFloors_total _ _
  have excess := handed.total
  exact ⟨rest, by omega, handed.rest_le, satisfied⟩

/-- A starved claim comes to nothing (R30). -/
theorem Claim.grant_of_starved {rows : List Row} {stage basis : Nat} {c : Claim} (h : c ∈ allClaims rows stage basis)
    (starved : c.starved = true) : c.grant = 0 := by
  have floor := allClaims_floor h
  have excess := allClaims_excess_le h
  rw [Claim.want_of_starved starved] at excess
  simp only [starved, if_true] at floor
  simp only [Claim.grant]; omega

/-- A satisfied claim of an ACTIVE row that is not starved comes to the demand, or to the floor where that is more (R31, R34). -/
theorem Claim.grant_of_satisfied {rows : List Row} {stage basis : Nat} {c : Claim} (h : c ∈ allClaims rows stage basis)
    (active : c.row.isActive = true) (starved : c.starved = false) (satisfied : c.unsatisfied = false) :
    c.grant = max c.row.demand floorUnits := by
  have floor := allClaims_floor h
  have excess := allClaims_excess_le h
  simp only [Claim.unsatisfied, decide_eq_false_iff_not, Claim.want, active, starved, Bool.not_false, Bool.and_self, if_true] at satisfied excess
  simp only [starved, Bool.false_eq_true, if_false] at floor
  simp only [Claim.grant]; omega

/-! ### The claims find their rows (R1, R24, R34) -/

/-- A claim's row with the claim's result. -/
def Claim.written (c : Claim) : Row := c.row.setGrant c.grant c.starved

section Written

variable {rows : List Row} (ordered : rows.Pairwise fun a b => a.station < b.station) {stage basis : Nat} {c : Claim}
  (h : c ∈ allClaims rows stage basis)

include h in
theorem Claim.written_grant : c.written.grant = c.grant := Row.setGrant_grant (live_of_mem_allClaims h) _ _
include h in
theorem Claim.written_starved : c.written.starved = c.starved := Row.setGrant_starved (live_of_mem_allClaims h) _ _
include h in
theorem Claim.written_live : c.written.live = true := (Row.setGrant_live _ _ _).trans (live_of_mem_allClaims h)

include ordered in
theorem allClaims_stations_nodup : ((allClaims rows stage basis).map fun c => c.row.station).Nodup := by
  have perm := (allClaims_rows_perm rows stage basis).map Row.station
  rw [List.map_map] at perm
  refine perm.nodup_iff.2 (List.pairwise_map.2 ?_)
  exact (ordered.filter Row.live).imp ne_of_lt

include ordered h in
theorem writeClaim_row : writeClaim (allClaims rows stage basis) c.row = c.written := by
  have found : (allClaims rows stage basis).find? (fun d => d.row.station == c.row.station) = some c := by
    cases hd : (allClaims rows stage basis).find? fun d => d.row.station == c.row.station with
    | none => simpa using List.find?_eq_none.1 hd c h
    | some d =>
      have same := List.inj_on_of_nodup_map (allClaims_stations_nodup ordered) (List.mem_of_find?_eq_some hd) h
      exact congrArg some (same (by simpa using List.find?_some hd))
  simp only [writeClaim, found]; rfl

end Written

theorem writeClaim_live (cs : List Claim) (r : Row) : (writeClaim cs r).live = r.live := by
  unfold writeClaim
  split
  · exact Row.setGrant_live _ _ _
  · rfl

/-- The live rows of a recompute are the claims, written. -/
theorem recomputeRows_live_perm {rows : List Row} (ordered : rows.Pairwise fun a b => a.station < b.station) {stage basis : Nat}
    (hbasis : capacityBasis rows = some basis) :
    ((recomputeRows rows stage).filter Row.live).Perm ((allClaims rows stage basis).map Claim.written) := by
  have live : Row.live ∘ writeClaim (allClaims rows stage basis) = Row.live := funext (writeClaim_live _)
  have written : (allClaims rows stage basis).map Claim.written =
      ((allClaims rows stage basis).map Claim.row).map (writeClaim (allClaims rows stage basis)) := by
    rw [List.map_map]
    exact List.map_congr_left fun c hc => (writeClaim_row ordered hc).symm
  rw [recomputeRows, hbasis, written]
  simp only [List.filter_map, live]
  exact ((allClaims_rows_perm rows stage basis).map _).symm

/-- Every live row after a recompute is a claim, written. -/
theorem exists_claim_of_live {rows : List Row} (ordered : rows.Pairwise fun a b => a.station < b.station) {stage basis : Nat}
    (hbasis : capacityBasis rows = some basis) {a : Row} (ha : a ∈ recomputeRows rows stage) (live : a.live = true) :
    ∃ c ∈ allClaims rows stage basis, c.written = a :=
  List.mem_map.1 ((recomputeRows_live_perm ordered hbasis).subset (List.mem_filter.2 ⟨ha, live⟩))

/-- The grants of the live rows sum to what the claims come to. -/
theorem sum_grants_eq {rows : List Row} (ordered : rows.Pairwise fun a b => a.station < b.station) {stage basis : Nat}
    (hbasis : capacityBasis rows = some basis) :
    (((recomputeRows rows stage).filter Row.live).map Row.grant).sum = ((allClaims rows stage basis).map Claim.grant).sum := by
  rw [((recomputeRows_live_perm ordered hbasis).map Row.grant).sum_nat, List.map_map]
  exact congrArg List.sum (List.map_congr_left fun c hc => Claim.written_grant hc)

theorem startingRemainder_eq (rows : List Row) (stage basis : Nat) :
    startingRemainder rows stage basis = usable basis stage - ((rows.filter fun r => !r.live).map Row.frozen).sum := by
  rw [startingRemainder, effectiveCapacity_eq_usable, frozenReservation_eq]

/-! ### Which claims are starved (R30) -/

section Starved

variable {rows : List Row} {stage basis : Nat}

theorem starved_of_remainder_lt (h : startingRemainder rows stage basis < floorUnits) {c : Claim} (hc : c ∈ allClaims rows stage basis) :
    c.starved = true := by
  obtain ⟨f, hf, -, -, hstarved⟩ := exists_floorClaim hc
  exact hstarved ▸ giveFloors_starved_of_lt _ h f hf

theorem not_starved_of_le_remainder (h : floorUnits * (rows.filter Row.live).length ≤ startingRemainder rows stage basis) {c : Claim}
    (hc : c ∈ allClaims rows stage basis) : c.starved = false := by
  obtain ⟨f, hf, -, -, hstarved⟩ := exists_floorClaim hc
  rw [← liveRows, ← (floorOrder_perm rows).length_eq] at h
  exact hstarved ▸ giveFloors_not_starved _ _ h f hf

theorem floorClaims_left_lt_of_starved {c : Claim} (hc : c ∈ allClaims rows stage basis) (starved : c.starved = true) :
    (floorClaims rows stage basis).2 < floorUnits := by
  obtain ⟨f, hf, -, -, hstarved⟩ := exists_floorClaim hc
  exact giveFloors_left_lt_of_starved _ _ f hf (hstarved.trans starved)

/-- A row visited after a starved one is starved (R29). -/
theorem starved_of_before (ordered : rows.Pairwise fun a b => a.station < b.station) {c d : Claim}
    (hc : c ∈ allClaims rows stage basis) (hd : d ∈ allClaims rows stage basis) (starved : c.starved = true)
    (before : c.row.Before d.row) : d.starved = true := by
  have order : (floorClaims rows stage basis).1.Pairwise fun f g => f.row.Before g.row :=
    List.pairwise_map.1 ((giveFloors_rows _ _).symm ▸ floorOrder_pairwise ordered)
  obtain ⟨f, hf, frow, -, fstarved⟩ := exists_floorClaim hc
  obtain ⟨g, hg, grow, -, gstarved⟩ := exists_floorClaim hd
  rw [← gstarved]
  exact forall_of_pairwise_before order (giveFloors_starved_pairwise _ _) f hf g hg (frow ▸ grow ▸ before) (fstarved.trans starved)

end Starved

end Sys2Proof.Machine
end

section
/-! PROOFS. The obligations on the sum of the grants and on the starved rows, settled from what the claims come to. -/

namespace Sys2Proof.Machine

-- Proofs in parallel threads reserve more address space than the check's memory limit admits.
set_option Elab.async false

/-- Settles O22: the claims come to the starting remainder but for the rest that `allClaims_total` bounds. -/
theorem grantSumBounded : Obligations.GrantSumBounded := by
  intro rows stage basis ⟨ordered, _⟩ isBasis after sum difference
  have hbasis := capacityBasis_of_isBasis isBasis
  have hsum : sum = ((allClaims rows stage basis).map Claim.grant).sum := sum_grants_eq ordered hbasis
  have start := startingRemainder_eq rows stage basis
  have hdifference : difference = usable basis stage - ((rows.filter fun r => !r.live).map Row.frozen).sum := rfl
  obtain ⟨rest, total, rest_le, satisfied⟩ := allClaims_total rows stage basis
  refine ⟨fun _ => by omega, fun small => ?_, fun _ short => ⟨fun a ha active starved => ?_, fun ⟨a, ha, starved⟩ => ?_⟩⟩
  · have all_starved : startingRemainder rows stage basis < floorUnits := by simp only [floorUnits]; omega
    rw [hsum]
    exact List.sum_eq_zero (List.forall_mem_map.2 fun c hc => Claim.grant_of_starved hc (starved_of_remainder_lt all_starved hc))
  · obtain ⟨c, hc, rfl⟩ := exists_claim_of_live ordered hbasis ha (Row.live_of_isActive active)
    have done := satisfied.resolve_left (by omega) c hc
    rw [Claim.written_starved hc] at starved
    simp only [Claim.written, Row.setGrant_isActive, Row.setGrant_demand] at active ⊢
    exact (Claim.written_grant hc).trans (Claim.grant_of_satisfied hc active starved done)
  · obtain ⟨c, hc, rfl⟩ := exists_claim_of_live ordered hbasis ha (Row.live_of_starved starved)
    have left_lt := floorClaims_left_lt_of_starved hc ((Claim.written_starved hc).symm.trans starved)
    simp only [floorUnits] at left_lt
    omega

/-- Settles O25: the floor visit starves every row from its first starved one on, and no round of excess changes a mark. -/
theorem starvedRowsLast : Obligations.StarvedRowsLast := by
  intro rows stage basis ⟨ordered, _⟩ isBasis after start
  have hbasis := capacityBasis_of_isBasis isBasis
  have hstart : startingRemainder rows stage basis = start := startingRemainder_eq rows stage basis
  refine ⟨fun a ha starved => ?_, fun a ha b hb alive blive starved before => ?_, fun enough a ha => ?_, fun small a ha live => ?_⟩
  · obtain ⟨c, hc, rfl⟩ := exists_claim_of_live ordered hbasis ha (Row.live_of_starved starved)
    rw [Claim.written_starved hc] at starved
    rw [Claim.written_grant hc, Claim.grant_of_starved hc starved]
  · obtain ⟨c, hc, rfl⟩ := exists_claim_of_live ordered hbasis ha alive
    obtain ⟨d, hd, rfl⟩ := exists_claim_of_live ordered hbasis hb blive
    rw [Claim.written_starved hc] at starved
    rw [Claim.written_starved hd]
    simp only [Claim.written, Row.setGrant_classNo, Row.setGrant_station] at before
    exact starved_of_before ordered hc hd starved before
  · refine Bool.eq_false_iff.2 fun starved => ?_
    obtain ⟨c, hc, rfl⟩ := exists_claim_of_live ordered hbasis ha (Row.live_of_starved starved)
    rw [Claim.written_starved hc, not_starved_of_le_remainder (enough.trans_eq hstart.symm) hc] at starved
    cases starved
  · obtain ⟨c, hc, rfl⟩ := exists_claim_of_live ordered hbasis ha live
    have starved := starved_of_remainder_lt (hstart.trans_lt small) hc
    exact ⟨(Claim.written_starved hc).trans starved, (Claim.written_grant hc).trans (Claim.grant_of_starved hc starved)⟩

end Sys2Proof.Machine
end

section
/-! PROOFS. The two edges of ALM: what the commit unit and the feed watch each do with them, and the obligation on both edges. -/

namespace Sys2Proof.Machine

theorem takesAlarm_iff (l : LinkState) : LinkState.takesAlarm l = true ↔ l = .hailing ∨ l = .census ∨ l = .on ∨ l = .leaving := by
  cases l <;> simp [LinkState.takesAlarm]

/-! ### The falling edge (R48, R104) -/

theorem clampLimit_of_takesAlarm {s : State} (h : BayInv s) (takes : LinkState.takesAlarm s.line.link = true) :
    s.clampLimit = withCommit { target := s.commit.target, limit := min s.commit.limit 4, hold := .idle } s := by
  rw [State.clampLimit, if_pos takes, putCommit_eq h]
  rfl

theorem clampLimit_of_not_takesAlarm {s : State} (h : ¬LinkState.takesAlarm s.line.link = true) : s.clampLimit = s := if_neg h

@[simp] theorem State.clampLimit_feed (s : State) : s.clampLimit.feed = s.feed := by
  unfold State.clampLimit
  split
  · exact State.putCommit_feed _ _
  · rfl

theorem clampLimit_bayInv {s : State} (h : BayInv s) : BayInv s.clampLimit := by
  unfold State.clampLimit
  split
  · exact putCommit_bayInv h _
  · exact h

theorem stepUp_of_tracking {s : State} (h : BayInv s) (tracking : s.feed.tracking = true) :
    StageChanged (min (s.feed.stage + 1) 2) { s with feed.quiet := .running (ms 10000), feed.low := .running (ms 20) } s.stepUp := by
  rw [State.stepUp, if_pos tracking]
  refine putStage_changed ?_ _
  exact h.congr rfl rfl rfl

theorem stepUp_of_not_tracking {s : State} (h : s.feed.tracking = false) : s.stepUp = s := by simp [State.stepUp, h]

/-! ### The rising edge (R49, R106) -/

theorem FeedWatch.rise_of_tracking {f : FeedWatch} (h : f.tracking = true) :
    f.rise = { f with low := .idle, stuck := false, quiet := .running (ms 10000) } := if_pos h

theorem FeedWatch.rise_of_not_tracking {f : FeedWatch} (h : f.tracking = false) : f.rise = f := by simp [FeedWatch.rise, h]

/-- A running hold stays as it is; an idle one starts where T is above L (R45, R49). -/
theorem holdOnRise_eq (hold : Timer) (target limit : Nat) :
    holdOnRise hold target limit = if hold = .idle ∧ limit < target then .running (ms 250) else hold := by
  cases hold with
  | idle => simp only [holdOnRise, true_and]; rfl
  | running left => simp [holdOnRise]

/-- The check at a rising edge writes the raise hold alone. -/
theorem checkOnRise_eq (s : State) : s.checkOnRise = { s with commit.hold := s.checkOnRise.commit.hold } := by
  unfold State.checkOnRise
  split <;> rfl

@[simp] theorem State.checkOnRise_feed (s : State) : s.checkOnRise.feed = s.feed := by rw [checkOnRise_eq]

theorem checkOnRise_hold (s : State) :
    s.checkOnRise.commit.hold =
      if LinkState.takesAlarm s.line.link = true ∧ s.commit.hold = .idle ∧ s.commit.limit < s.commit.target then .running (ms 250)
      else s.commit.hold := by
  unfold State.checkOnRise
  split
  next takes => simp only [holdOnRise_eq, takes, true_and]
  next ignores => simp only [ignores, Bool.false_eq_true, false_and, if_false]

/-- Settles O55: a falling edge is the clamp, then the feed watch's step up from what the clamp leaves of it, which is all of it; a rising
edge is the feed watch's part, then the check of the raise hold. -/
theorem alarmEdges : Obligations.AlarmEdges := by
  intro s h counts
  have takes : LinkState.takesAlarm s.line.link = true ↔ counts := takesAlarm_iff _
  constructor
  · let low : State := { s with pins.almHigh := false }
    have hlow : BayInv low := h.congr rfl rfl rfl
    have watch : low.clampLimit.feed = s.feed := State.clampLimit_feed low
    refine ⟨low.clampLimit, low.clampLimit.stepUp, _, rfl, settle_settled _, fun c => ?_, fun c => ?_, fun tracking => ?_, fun untracked => ?_⟩
    · exact clampLimit_of_takesAlarm hlow (takes.2 c)
    · exact clampLimit_of_not_takesAlarm (mt takes.1 c)
    · simpa only [watch] using stepUp_of_tracking (clampLimit_bayInv hlow) (watch ▸ tracking)
    · exact stepUp_of_not_tracking (watch ▸ untracked)
  · let high : State := { s with pins.almHigh := true, feed := s.feed.rise }
    have watch : high.checkOnRise.feed = s.feed.rise := State.checkOnRise_feed high
    have hold := checkOnRise_hold high
    refine ⟨high.checkOnRise, _, rfl, settle_settled _, ?_, fun tracking => ?_, fun untracked => ?_, fun ⟨c, idle, below⟩ => ?_, fun c => ?_⟩
    · rw [watch]; exact checkOnRise_eq high
    · rw [watch, FeedWatch.rise_of_tracking tracking]
    · rw [watch, FeedWatch.rise_of_not_tracking untracked]
    · exact hold.trans (if_pos ⟨takes.2 c, idle, below⟩)
    · exact hold.trans (if_neg fun ⟨c', idle, below⟩ => c ⟨takes.1 c', idle, below⟩)

end Sys2Proof.Machine
end

section
/-! PROOFS. The record of a cycle that ends, delivered by its conversion; what the feed watch does with a FEEDV record, and the obligation on it. -/

namespace Sys2Proof.Machine

-- Proofs in parallel threads reserve more address space than the check's memory limit admits.
set_option Elab.async false

/-! ### A conversion that ends its cycle (R114 to R119) -/

/-- The conversion delivers the record that the cycle ends with, whatever its channel, and the step is then over. -/
theorem exec_conversion_ended {s : State} {input : Int} {r : Reading} (fell : Bool) (released : s.power = .released)
    (ends : CycleEnds s input r) :
    ∃ t, exec (.conversion { value := input, shlFell := fell }) s = .next t ∧ Settled ((afterCycle fell r s).deliver r) t := by
  refine ⟨((afterCycle fell r s).deliver r).settle, ?_, settle_settled _⟩
  simp only [exec, execConversion, released, takeSample_ended ends]

theorem CycleEnds.channel_eq {s : State} {input : Int} {r : Reading} (ends : CycleEnds s input r) : r.channel = s.scan.pos.channel := by
  obtain ⟨_, _, channel, _⟩ := ends
  exact channel

theorem deliver_of_feedv {r : Reading} (channel : r.channel = .feedv) (s : State) : s.deliver r = s.takeFeedv r := by
  simp only [State.deliver, channel]

/-! ### The droop event (R101) -/

theorem Timer.tick_eq_idle_iff (timer : Timer) : timer.tick = .idle ↔ timer = .idle := by
  cases timer <;> simp [Timer.tick]

/-- The conditions under which a droop event drives ALM: the link state, the line and the re-arm timer (R101). -/
def State.droopDrives (s : State) : Prop :=
  (s.line.link = .census ∨ s.line.link = .on) ∧ s.pins.almHigh = true ∧ s.feed.rearm = .idle

/-- The conversion that delivers the record neither starts nor ends a run of the re-arm timer. -/
theorem droopDrives_afterCycle (fell : Bool) (r : Reading) (s : State) : (afterCycle fell r s).droopDrives ↔ s.droopDrives :=
  and_congr_right' (and_congr_right' (Timer.tick_eq_idle_iff s.feed.rearm))

theorem droopEvent_of_drives {s : State} (drives : s.droopDrives) :
    s.droopEvent = { s with feed.drive := .running (ms 2), feed.rearm := .running (ms 50) } := by
  obtain ⟨link, high, rearm⟩ := drives
  exact if_pos ⟨(counted_iff _).2 link, high, rearm⟩

theorem droopEvent_of_not_drives {s : State} (passes : ¬s.droopDrives) : s.droopEvent = s :=
  if_neg fun ⟨link, high, rearm⟩ => passes ⟨(counted_iff _).1 link, high, rearm⟩

/-! ### A FEEDV record (R100) -/

theorem takeFeedv_of_complete {r : Reading} (ending : r.ending = .complete) (s : State) : s.takeFeedv r = { s with feed.droop := 0 } := by
  simp only [State.takeFeedv, ending]

theorem takeFeedv_of_first_limit {r : Reading} {s : State} (ending : r.ending = .limit) (droop : s.feed.droop = 0) :
    s.takeFeedv r = { s with feed.droop := 1 } := by
  simp [State.takeFeedv, ending, droop]

theorem takeFeedv_of_later_limit {r : Reading} {s : State} (ending : r.ending = .limit) (droop : 1 ≤ s.feed.droop) :
    s.takeFeedv r = ({ s with feed.droop := 0 } : State).droopEvent := by
  have reached : 2 ≤ s.feed.droop + 1 := Nat.succ_le_succ droop
  simp only [State.takeFeedv, ending, if_pos reached]

/-- Settles O32: the conversion delivers the record to the feed watch, in a state whose droop count and conditions of a droop event are those
before it; the cases are the record's ending, the count, and whether the event drives ALM. -/
theorem feedvRecord : Obligations.FeedvRecord := by
  intro input fell s r released feedv ends v
  obtain ⟨t, run, settled⟩ := exec_conversion_ended fell released ends
  rw [deliver_of_feedv (ends.channel_eq.trans feedv)] at settled
  refine ⟨v.takeFeedv r, t, run, settled, fun complete => ?_, fun limit none_before => ?_,
    fun limit one_before => ⟨fun drives => ?_, fun passes => ?_⟩⟩
  · exact takeFeedv_of_complete complete v
  · exact takeFeedv_of_first_limit (s := v) limit none_before
  · rw [takeFeedv_of_later_limit (s := v) limit one_before]
    exact droopEvent_of_drives (s := { v with feed.droop := 0 }) ((droopDrives_afterCycle fell r s).2 drives)
  · rw [takeFeedv_of_later_limit (s := v) limit one_before]
    exact droopEvent_of_not_drives (s := { v with feed.droop := 0 }) (mt (droopDrives_afterCycle fell r s).1 passes)

end Sys2Proof.Machine
end

section
/-! PROOFS. A bay put into a state whose limit its phase fits, and what the bay controller does with a DIET and with a PID record: each
record's effect said by the band or class of its average, and the obligations on both. -/

namespace Sys2Proof.Machine

/-! ### A bay whose phase fits the limit (R131) -/

/-- The phase is one that HOLD's rule leaves as it is under the limit L: charging with 2 units or more, held with less (R131). -/
def Phase.Fits (limit : Nat) : Phase → Prop
  | .charging _ => 2 ≤ limit
  | .hold _ => limit < 2
  | .vacant | .qualify | .done | .fault _ => True

theorem BayInv.fits {s : State} (h : BayInv s) : s.bay.phase.Fits s.commit.limit := by
  obtain ⟨-, charging, hold, -⟩ := h
  cases phase : s.bay.phase with
  | charging p => exact charging p phase
  | hold p => exact hold p phase
  | vacant | qualify | done | fault => trivial

/-- The conversion that delivers a record changes neither the phase nor L. -/
theorem BayInv.fits_afterCycle {s : State} (h : BayInv s) {fell : Bool} {r : Reading} :
    (afterCycle fell r s).bay.phase.Fits s.commit.limit := h.fits

theorem followLimit_of_fits {b : BayController} {limit : Nat} (fits : b.phase.Fits limit) (full : Bool) : b.followLimit limit full = b := by
  unfold BayController.followLimit
  cases phase : b.phase with
  | charging p => rw [phase] at fits; exact if_neg (Nat.not_lt.mpr fits)
  | hold p => rw [phase] at fits; exact if_pos fits
  | vacant | qualify | done | fault => rfl

theorem putBay_of_fits {b : BayController} {s : State} (fits : b.phase.Fits s.commit.limit) : s.putBay b = withBay (b.demanding s.cfg) s := by
  rw [putBay_eq, followLimit_of_fits fits]

/-- A record that the bay controller answers with a bay whose phase fits L leaves that bay, its local demand handed over (R133). -/
theorem exec_conversion_putBay {s : State} {input : Int} {r : Reading} {b : BayController} (fell : Bool) (released : s.power = .released)
    (ends : CycleEnds s input r) (delivered : (afterCycle fell r s).deliver r = (afterCycle fell r s).putBay b)
    (fits : b.phase.Fits s.commit.limit) :
    ∃ t, exec (.conversion { value := input, shlFell := fell }) s = .next t ∧
      Settled (withBay (b.demanding s.cfg) (afterCycle fell r s)) t := by
  obtain ⟨t, run, settled⟩ := exec_conversion_ended fell released ends
  rw [delivered, putBay_of_fits (s := afterCycle fell r s) fits] at settled
  exact ⟨t, run, settled⟩

/-! ### Entering FAULT and QUALIFY (R127, R136, R140) -/

theorem enterFault_eq (cause : FaultCause) (b : BayController) : b.enterFault cause = faulted cause b := rfl

theorem enterQualify_eq (b : BayController) : b.enterQualify = qualified b := rfl

theorem Phase.name_eq_fault_iff (p : Phase) : p.name = .fault ↔ ∃ cause, p = .fault cause := by
  cases p with
  | charging c => cases c <;> simp [Phase.name]
  | vacant | qualify | done | hold | fault => simp [Phase.name]

/-! ### A DIET record (R134, R136, R146) -/

/-- Foldback is set from 110 degrees, with the TAPER value of TAPER and of HOLD over TAPER held to the cap (R133, R134). -/
theorem takeHeat_of_hot {average : Int} (hot : 110 ≤ average) (c : ConfigRecord) (b : BayController) :
    b.takeHeat c average =
      { b with
        foldback := true
        taperValue := if b.phase = .charging .taper ∨ b.phase = .hold .taper then min b.taperValue (c.fast / 2) else b.taperValue } := by
  unfold BayController.takeHeat
  rw [if_pos hot]
  split
  next phase => simp [phase, ConfigRecord.foldbackCap]
  next phase => simp [phase, ConfigRecord.foldbackCap]
  next charging hold => rw [if_neg (not_or.mpr ⟨charging, hold⟩)]

theorem takeHeat_of_cool {average : Int} (cool : average < 100) (c : ConfigRecord) (b : BayController) :
    b.takeHeat c average = { b with foldback := false } := by
  have not_hot : ¬110 ≤ average := by omega
  rw [BayController.takeHeat, if_neg not_hot, if_pos cool]

theorem takeHeat_of_between {average : Int} (above : 100 ≤ average) (below : average < 110) (c : ConfigRecord) (b : BayController) :
    b.takeHeat c average = b := by
  rw [BayController.takeHeat, if_neg (Int.not_le.mpr below), if_neg (Int.not_lt.mpr above)]

/-- From 125 degrees a bay with a pack and no fault enters FAULT with DIE_HOT (R134, R136). -/
theorem judgeHeat_of_warm {average : Int} (warm : 100 ≤ average) (b : BayController) :
    b.judgeHeat average = if 125 ≤ average ∧ b.phase ≠ .vacant ∧ b.phase.name ≠ .fault then faulted .dieHot b else b := by
  have not_cool : ¬average < 100 := Int.not_lt.mpr warm
  unfold BayController.judgeHeat
  cases phase : b.phase with
  | vacant => simp
  | fault cause => cases cause <;> simp [Phase.name_eq_fault_iff, not_cool]
  | qualify | charging p | done | hold p => simp [Phase.name_eq_fault_iff, enterFault_eq]

/-- Below 100 degrees a DIE_HOT fault ends in QUALIFY (R146). -/
theorem judgeHeat_of_cool {average : Int} (cool : average < 100) (b : BayController) :
    b.judgeHeat average = if b.phase = .fault .dieHot then qualified b else b := by
  have not_hot : ¬125 ≤ average := by omega
  unfold BayController.judgeHeat
  cases phase : b.phase with
  | vacant => simp
  | fault cause => cases cause <;> simp [cool, enterQualify_eq]
  | qualify | charging p | done | hold p => simp [not_hot]

/-- What a DIET record does, by the three bands of its average: below 100, 100 to 109, and from 110. -/
theorem judgeHeat_takeHeat (c : ConfigRecord) (average : Int) (b : BayController) :
    (b.takeHeat c average).judgeHeat average = bayAfterHeat c average b := by
  unfold bayAfterHeat
  by_cases hot : 110 ≤ average
  · have warm : 100 ≤ average := by omega
    rw [if_pos hot, takeHeat_of_hot hot, judgeHeat_of_warm warm]
  · rw [if_neg hot]
    by_cases cool : average < 100
    · rw [if_pos cool, takeHeat_of_cool cool, judgeHeat_of_cool cool]
    · have not_scorching : ¬125 ≤ average := by omega
      rw [if_neg cool, takeHeat_of_between (Int.not_lt.mp cool) (Int.not_le.mp hot), judgeHeat_of_warm (Int.not_lt.mp cool),
        if_neg fun entered => not_scorching entered.1]

theorem takeDiet_eq (r : Reading) (s : State) : s.takeDiet r = s.putBay (bayAfterHeat s.cfg r.average s.bay) := by
  rw [State.takeDiet, judgeHeat_takeHeat]

theorem deliver_of_diet {r : Reading} (channel : r.channel = .diet) (s : State) : s.deliver r = s.takeDiet r := by
  simp only [State.deliver, channel]

theorem bayAfterHeat_fits {b : BayController} {limit : Nat} (fits : b.phase.Fits limit) (c : ConfigRecord) (average : Int) :
    (bayAfterHeat c average b).phase.Fits limit := by
  unfold bayAfterHeat
  by_cases hot : 110 ≤ average
  · rw [if_pos hot]
    dsimp only
    split
    next => trivial
    next => exact fits
  · rw [if_neg hot]
    split_ifs
    exacts [trivial, fits, fits]

/-- Settles O35: the foldback flag and then the judgement of DIE_HOT come to the effect that R134 and R146 state, and neither leads into a
charging phase or HOLD, so L has nothing more to say. -/
theorem dietRecord : Obligations.DietRecord := by
  intro input fell s r inv released diet ends
  have delivered := deliver_of_diet (ends.channel_eq.trans diet) (afterCycle fell r s)
  exact exec_conversion_putBay fell released ends (delivered.trans (takeDiet_eq r _)) (bayAfterHeat_fits inv.fits_afterCycle _ _)

/-! ### A PID record (R126) -/

theorem pidClassOf_eq (average : Int) : pidClassOf average = pidClass average := by
  unfold pidClassOf pidClass
  grind

/-- An open record removes a pack (R126). -/
theorem takePid_openPin (b : BayController) : b.takePid .openPin = if b.phase = .vacant then b else b.remove := by
  cases phase : b.phase <;> simp [BayController.takePid, phase]

/-- A second valid record in VACANT qualifies the pack (R126). -/
theorem takePid_valid (b : BayController) :
    b.takePid .valid = if b.phase = .vacant ∧ b.prevPid = some .valid then qualified b else b := by
  cases phase : b.phase <;> simp [BayController.takePid, phase, enterQualify_eq]

/-- A second short record faults a bay that has no fault, VACANT included (R126, R136). -/
theorem takePid_short (b : BayController) :
    b.takePid .short = if b.phase.name ≠ .fault ∧ b.prevPid = some .short then faulted .packIdInvalid b else b := by
  cases phase : b.phase <;> simp [BayController.takePid, phase, Phase.name_eq_fault_iff, enterFault_eq]

/-- What a PID record does, by its three classes. -/
theorem takePid_recorded (average : Int) (b : BayController) :
    { b.takePid (pidClass average) with prevPid := some (pidClass average) } = bayAfterPid average b := by
  unfold bayAfterPid
  cases pidClass average with
  | openPin =>
    rw [takePid_openPin]
    by_cases vacant : b.phase = .vacant
    · simp [vacant]
    · simp [vacant, BayController.remove, Credit.zero]
  | valid =>
    rw [takePid_valid]
    by_cases enters : b.phase = .vacant ∧ b.prevPid = some .valid
    · simp [enters, qualified]
    · simp [enters]
  | short =>
    rw [takePid_short]
    by_cases enters : b.phase.name ≠ .fault ∧ b.prevPid = some .short
    · simp [enters, faulted]
    · simp [enters]

theorem takePidRecord_eq (r : Reading) (s : State) : s.takePidRecord r = s.putBay (bayAfterPid r.average s.bay) := by
  rw [← takePid_recorded, ← pidClassOf_eq, State.takePidRecord]

theorem deliver_of_pid {r : Reading} (channel : r.channel = .pid) (s : State) : s.deliver r = s.takePidRecord r := by
  simp only [State.deliver, channel]

theorem bayAfterPid_fits {b : BayController} {limit : Nat} (fits : b.phase.Fits limit) (average : Int) :
    (bayAfterPid average b).phase.Fits limit := by
  unfold bayAfterPid
  split_ifs
  exacts [trivial, trivial, trivial, fits]

/-- Settles O36: the class, the phase and the class before it decide the effect, which ends in VACANT, QUALIFY or FAULT or keeps the phase,
so L has nothing more to say. -/
theorem pidRecord : Obligations.PidRecord := by
  intro input fell s r inv released pid ends
  have delivered := deliver_of_pid (ends.channel_eq.trans pid) (afterCycle fell r s)
  exact exec_conversion_putBay fell released ends (delivered.trans (takePidRecord_eq r _)) (bayAfterPid_fits inv.fits_afterCycle _)

end Sys2Proof.Machine
end

section
/-! PROOFS. The straps as the decoder reads them, the judgement of the strap pass and the record it loads, the link state it ends in, and the
obligation on the end of the strap pass. -/

namespace Sys2Proof.Machine

/-! ### The band of a strap reading (R150) -/

/-- A reading from 0 mV up lies in one band, that of its code. -/
theorem inBand_iff {v : Int} (nonneg : 0 ≤ v) (n : Nat) : InBand v n ↔ (strapCode v).toNat = n := by
  unfold InBand strapCode
  split_ifs with above
  · have last : (31 : Code).toNat = 31 := rfl
    omega
  · rw [BitVec.toNat_ofNat]
    omega

/-- A strap is stable where the smallest and the largest of its samples lie in one band. -/
theorem strapResult_stable_iff {r : Reading} (min_nonneg : 0 ≤ r.min) (max_nonneg : 0 ≤ r.max) :
    (strapResult r).stable = true ↔ ∃ n, n < 32 ∧ InBand r.min n ∧ InBand r.max n := by
  have same : (strapResult r).stable = true ↔ strapCode r.min = strapCode r.max := beq_iff_eq
  simp only [same, inBand_iff min_nonneg, inBand_iff max_nonneg]
  constructor
  · intro equal
    exact ⟨_, (strapCode r.min).isLt, rfl, by rw [equal]⟩
  · rintro ⟨n, -, low, high⟩
    exact BitVec.eq_of_toNat_eq (low.trans high.symm)

/-- The record of a channel whose range begins at 0 holds no negative value (R112, R116). -/
theorem CycleEnds.nonneg {s : State} {input : Int} {r : Reading} (ends : CycleEnds s input r) (inv : ScanInv s)
    (range : (channelRange s.scan.pos.channel).1 = 0) : 0 ≤ r.min ∧ 0 ≤ r.max ∧ 0 ≤ r.average := by
  obtain ⟨-, -, -, -, min_eq, max_eq, average_eq, -⟩ := ends
  obtain ⟨-, empty, begun, -⟩ := inv
  have sample : 0 ≤ sampleOf s.scan.pos.channel input := range ▸ le_max_left _ _
  rw [min_eq, max_eq, average_eq]
  unfold sampled
  split_ifs with first
  · rw [empty first]
    exact ⟨sample, sample, Int.tdiv_nonneg (by simpa using sample) (Int.natCast_nonneg _)⟩
  · obtain ⟨⟨low, -⟩, ⟨high, -⟩, -, -, -, -, sum, -⟩ := begun (Nat.pos_of_ne_zero first)
    rw [range] at low high
    have sum_nonneg : 0 ≤ s.scan.acc.sum := (Int.mul_nonneg (Int.natCast_nonneg _) low).trans sum
    exact ⟨le_min low sample, le_max_of_le_left high, Int.tdiv_nonneg (Int.add_nonneg sum_nonneg sample) (Int.natCast_nonneg _)⟩

/-! ### The judgement and the configuration record (R151 to R153) -/

theorem strapsValid_iff (a b c : StrapResult) :
    strapsValid a b c = true ↔ a.stable = true ∧ b.stable = true ∧ c.stable = true ∧ 1 ≤ a.code.toNat ∧ a.code.toNat ≤ 16 := by
  simp [strapsValid, and_assoc]

theorem loadConfig_of_valid {a b c : StrapResult} (valid : strapsValid a b c = true) (tag : Tag) :
    loadConfig tag (some a) (some b) c = { station := some a.code.toNat, tag := tag, sb := b.code, sc := c.code } := if_pos valid

theorem loadConfig_of_invalid {sa sb : Option StrapResult} {c : StrapResult}
    (invalid : ∀ a b, sa = some a → sb = some b → ¬strapsValid a b c = true) (tag : Tag) : loadConfig tag sa sb c = .fixed tag := by
  cases sa with
  | none => rfl
  | some a =>
    cases sb with
    | none => rfl
    | some b => exact if_neg (invalid a b rfl rfl)

/-- The profile is the high bit of SC's code, so it picks the overvoltage limit by the code's half. -/
theorem overvoltage_eq (c : ConfigRecord) : c.overvoltage = if 16 ≤ c.sc.toNat then 4450 else 4300 := by
  unfold ConfigRecord.overvoltage ConfigRecord.regulation profileOf
  have code := c.sc.isLt
  split_ifs <;> omega

/-- The state with a configuration record loaded and its overvoltage limit taken, the decoder emptied (R121, R152, R153). -/
def State.withConfig (c : ConfigRecord) (s : State) : State :=
  { s with
    config := some c, straps := { sa := none, sb := none }
    scan := { s.scan with overvoltage := some (if 16 ≤ c.sc.toNat then 4450 else 4300) } }

theorem endStrapPass_eq (r : Reading) (s : State) :
    s.endStrapPass r = (s.withConfig (loadConfig s.tag s.straps.sa s.straps.sb (strapResult r))).leaveStrapPass := by
  unfold State.withConfig
  rw [← overvoltage_eq]
  rfl

theorem deliver_of_strapc {r : Reading} (channel : r.channel = .strapc) (s : State) : s.deliver r = s.endStrapPass r := by
  simp only [State.deliver, channel]

/-! ### The link state at the end of the strap pass (R59) -/

theorem leaveStrapPass_of_no_number {s : State} (h : BayInv s) (number : s.ownNumber = none) : s.leaveStrapPass = barredState s :=
  (if_pos number).trans (enterBarred_eq h)

theorem leaveStrapPass_of_enabled {s : State} {n : Nat} (h : BayInv s) (number : s.ownNumber = some n) (en : s.pins.en = true) :
    s.leaveStrapPass = hailingFromDown s := by
  simp only [State.leaveStrapPass, number, en, reduceCtorEq, if_false, if_true, hailFromDown_eq h]

theorem leaveStrapPass_of_disabled {s : State} {n : Nat} (number : s.ownNumber = some n) (en : s.pins.en = false) :
    s.leaveStrapPass = s := by
  simp only [State.leaveStrapPass, number, en, reduceCtorEq, Bool.false_eq_true, if_false]

/-! ### The bay through the strap pass (R125) -/

/-- The bay at its power-on values stands in its invariant under any limit and any configuration. -/
theorem BayInv.of_atPowerOn {s : State} (bay : s.bay = .atPowerOn) : BayInv s := by
  unfold BayInv
  rw [bay]
  have precharge : 0 ≤ prechargeSetting := by norm_num [prechargeSetting]
  have charge : 0 ≤ chargeSetting := by norm_num [chargeSetting]
  exact ⟨rfl, nofun, nofun, Nat.zero_le _, Nat.zero_le _, le_rfl, precharge, le_rfl, charge, rfl, rfl⟩

/-- Both credits stand stopped at power-on, so a conversion adds nothing to them. -/
theorem afterCycle_bay_of_atPowerOn {s : State} (bay : s.bay = .atPowerOn) (fell : Bool) (r : Reading) :
    (afterCycle fell r s).bay = .atPowerOn := by
  simp [afterCycle, State.tick, bay, BayController.atPowerOn, Credit.gain, Credit.zero]

/-- The bay takes no part in the end of the strap pass: whatever record is loaded, it stands in its invariant. -/
theorem StrapPassInv.bayInv_withConfig {s : State} (inv : StrapPassInv s) (inPass : s.scan.pos.inStrapPass = true) (fell : Bool) (r : Reading)
    (c : ConfigRecord) : BayInv ((afterCycle fell r s).withConfig c) := by
  obtain ⟨powerOn, -⟩ := inv
  obtain ⟨-, -, -, -, -, -, bay, -⟩ := powerOn inPass
  exact BayInv.of_atPowerOn (afterCycle_bay_of_atPowerOn bay fell r)

/-- Settles O38: the conversion delivers STRAPC's record, whose end of the pass loads a record by the judgement of the straps and then leaves
by the station number of that record and the level of EN. -/
theorem strapPassEnd : Obligations.StrapPassEnd := by
  intro input fell s r scan pass released s3 ends
  have channel : s.scan.pos.channel = .strapc := by rw [s3]; rfl
  obtain ⟨min_nonneg, max_nonneg, average_nonneg⟩ := ends.nonneg scan (by rw [channel]; rfl)
  have stable := strapResult_stable_iff min_nonneg max_nonneg
  have bay := pass.bayInv_withConfig (by rw [s3]; rfl) fell r
  have delivered : (afterCycle fell r s).deliver r =
      ((afterCycle fell r s).withConfig (loadConfig s.tag s.straps.sa s.straps.sb (strapResult r))).leaveStrapPass :=
    (deliver_of_strapc (ends.channel_eq.trans channel) _).trans (endStrapPass_eq r _)
  obtain ⟨t, run, settled⟩ := exec_conversion_ended fell released ends
  rw [delivered] at settled
  refine ⟨t, run, strapCode r.average, (inBand_iff average_nonneg _).2 rfl, fun a b valid => ?_, fun invalid => ?_⟩
  · obtain ⟨sa, sb, sa_stable, sb_stable, sc_band, low, high⟩ := valid
    have judged := (strapsValid_iff a b (strapResult r)).2 ⟨sa_stable, sb_stable, stable.2 sc_band, low, high⟩
    rw [sa, sb, loadConfig_of_valid judged] at settled
    refine ⟨fun en => ?_, fun en => ?_⟩
    · rwa [leaveStrapPass_of_enabled (bay _) rfl en] at settled
    · rwa [leaveStrapPass_of_disabled (s := (afterCycle fell r s).withConfig _) rfl en] at settled
  · have judged : ∀ a b, s.straps.sa = some a → s.straps.sb = some b → ¬strapsValid a b (strapResult r) = true := by
      intro a b sa sb valid
      obtain ⟨sa_stable, sb_stable, sc_stable, low, high⟩ := (strapsValid_iff _ _ _).1 valid
      exact invalid a b ⟨sa, sb, sa_stable, sb_stable, stable.1 sc_stable, low, high⟩
    rwa [loadConfig_of_invalid judged, leaveStrapPass_of_no_number (bay _) rfl] at settled

end Sys2Proof.Machine
end

section
/-! PROOFS. What a command can do, said once for all of them: power-on values, nothing, or one of its effects and then the end of the step.
Every invariant is a case analysis over these effects. -/

namespace Sys2Proof.Machine

-- Proofs in parallel threads reserve more address space than the check's memory limit admits.
set_option Elab.async false

/-! ### The effects -/

/-- A conversion inside its cycle: 25 microseconds on, an idle ended by an edge of SHL, the sample taken (R82, R114). -/
def afterSample (fell : Bool) (v : Int) (s : State) : State :=
  { s.tick with wire.idle := s.wire.idle && !fell, scan := { s.scan with acc := sampled s.scan.acc v } }

/-- A frame vetoed on the line: discarded, and a slot that was on the line waits (R60, R92, R94). -/
def afterVeto (s : State) : State := { s with wire := { idle := false, tx := none }, line.queue := s.line.queue.requeue }

/-- The frame is this station's own, or another station's under another number (R74; log 6). -/
def Origin (s : State) (f : Frame) (own : Bool) : Prop := own = true ∧ IsOwn s f ∨ own = false ∧ FromPeer s f

/-- The command is a veto of this station's own: of a frame it saw, or of a frame out of range (R89, R91; log 7). -/
def VetoesBy (s : State) (c : Instr) : Prop :=
  (∃ rx, c = .frameVetoed rx ∧ s.vetoes rx = true) ∨ ∃ f, c.frame? = some f ∧ frameInRange f = false

/-- What a command's own effects leave, before the end of the step, each under the condition on which the command has it. -/
inductive Effect (s : State) : Instr → State → Prop where
  | nothing (c : Instr) : Effect s c s
  | sampled (input : Int) (fell : Bool) (inside : ¬Outside s (sampleOf s.scan.pos.channel input))
      (more : s.scan.acc.count + 1 < s.scan.pos.samples) :
      Effect s (.conversion ⟨input, fell⟩) (afterSample fell (sampleOf s.scan.pos.channel input) s)
  | recorded (input : Int) (fell : Bool) (r : Reading) (ends : CycleEnds s input r) :
      Effect s (.conversion ⟨input, fell⟩) ((afterCycle fell r s).deliver r)
  | lineIdle (c : Instr) : Effect s c s.seeIdle
  | unheard (c : Instr) (out : s.takesLine = false) : Effect s c s.lineEnds
  | vetoedByOthers (rx : Reception) (takes : s.takesLine = true) : Effect s (.frameVetoed rx) (afterVeto s)
  | vetoedByThis (c : Instr) (takes : s.takesLine = true) (below : s.line.vetoRun + 1 < vetoRunLimit) :
      Effect s c { afterVeto s with line.vetoRun := s.line.vetoRun + 1 }
  | muted (c : Instr) (takes : s.takesLine = true) (vetoes : VetoesBy s c) (reached : vetoRunLimit ≤ s.line.vetoRun + 1) :
      Effect s c (afterVeto s).enterMute
  | duplicate (c : Instr) (f : Frame) (frame : c.frame? = some f) (accepts : Accepts s f) (foreign : ¬IsOwn s f)
      (number : s.ownNumber = some f.sender.toNat) : Effect s c (afterAccept false s).enterBarred
  | noBlock (c : Instr) (own : Bool) (takes : s.takesLine = true) : Effect s c (afterAccept own s)
  | joinOwn (n : Sender) (b : JoinBody) (accepts : Accepts s ⟨n, .join b⟩) (own : IsOwn s ⟨n, .join b⟩)
      (station : isStationSender n = true) (link : s.line.link = .hailing) :
      Effect s (.join n b) ((afterAccept true s).enterCensus n.toNat b)
  | joinPeer (n : Sender) (b : JoinBody) (accepts : Accepts s ⟨n, .join b⟩) (peer : FromPeer s ⟨n, .join b⟩)
      (station : isStationSender n = true) :
      Effect s (.join n b) ((afterAccept false s).putRowOf n.toNat (joinRow n.toNat b (findRow n.toNat s.table)))
  | demandOwn (n : Sender) (b : DemandBody) (accepts : Accepts s ⟨n, .demand b⟩) (own : IsOwn s ⟨n, .demand b⟩)
      (station : isStationSender n = true) (link : LinkState.counted s.line.link = true) :
      Effect s (.demand n b) (((afterAccept true s).announced b).takeDemand n.toNat b)
  | demandAdopted (n : Sender) (b : DemandBody) (accepts : Accepts s ⟨n, .demand b⟩) (own : IsOwn s ⟨n, .demand b⟩) :
      Effect s (.demand n b) ((afterAccept true s).adopt b)
  | demandPeer (n : Sender) (b : DemandBody) (accepts : Accepts s ⟨n, .demand b⟩) (peer : FromPeer s ⟨n, .demand b⟩)
      (station : isStationSender n = true) : Effect s (.demand n b) ((afterAccept false s).takeDemand n.toNat b)
  | leaveOwn (n : Sender) (b : LeaveBody) (accepts : Accepts s ⟨n, .leave b⟩) (own : IsOwn s ⟨n, .leave b⟩)
      (link : s.line.link = .leaving) : Effect s (.leave n b) ((afterAccept true s).putRowOf n.toNat none).endLeaving
  | leavePeer (n : Sender) (b : LeaveBody) (accepts : Accepts s ⟨n, .leave b⟩) (peer : FromPeer s ⟨n, .leave b⟩)
      (station : isStationSender n = true) :
      Effect s (.leave n b) ((afterAccept false s).putRowOf n.toNat (leaveRow b (findRow n.toNat s.table)))
  | queryAnswered (n : Sender) (q : QueryBody) (r : ReportBody) (takes : s.takesLine = true)
      (counted : LinkState.counted s.line.link = true) (room : s.line.queue.reports.length < reportSlots) :
      Effect s (.query n q) { afterAccept false s with
        line.queue.reports := (afterAccept false s).line.queue.reports ++ [r] }
  | holdExpired (due : s.commit.hold = .running 0) :
      Effect s .raiseHoldExpiry (s.putCommit { s.commit with
        limit := if s.pins.almHigh = true ∧ s.commit.limit < s.commit.target then s.commit.target else s.commit.limit
        hold := .idle })
  | enLevel (c : Instr) (level : Bool) : Effect s c { s with pins.en := level }
  | enabled (down : s.line.link = .down) (loaded : s.config.isSome = true) :
      Effect s .enRise ({ s with pins.en := true } : State).hailFromDown
  | disabledCounted (link : LinkState.counted s.line.link = true) : Effect s .enFall ({ s with pins.en := false } : State).enterLeaving
  | disabledHailing (link : s.line.link = .hailing) : Effect s .enFall ({ s with pins.en := false } : State).enterDown
  | alarmFell : Effect s .almFallingEdge ({ s with pins.almHigh := false } : State).clampLimit.stepUp
  | alarmRose : Effect s .almRisingEdge ({ s with pins.almHigh := true, feed := s.feed.rise } : State).checkOnRise
  | driveEnded (due : s.feed.drive = .running 0) : Effect s .almDriveEnd { s with feed.drive := .idle }
  | rearmed (due : s.feed.rearm = .running 0 ∨ s.feed.rearm = .running 1) : Effect s .rearmTimerExpiry { s with feed.rearm := .idle }
  | stuck (due : s.feed.low = .running 0) :
      Effect s .lowTimerExpiry (({ s with feed.low := .idle, feed.stuck := true } : State).putStage 2)
  | quietStep (due : s.feed.quiet = .running 0) (high : s.pins.almHigh = true) (above : 0 < s.feed.stage) :
      Effect s .quietTimerExpiry (({ s with feed.quiet := quietAfter (s.feed.stage - 1) } : State).putStage (s.feed.stage - 1))
  | quietOver (due : s.feed.quiet = .running 0) : Effect s .quietTimerExpiry { s with feed.quiet := .idle }
  | censusOver (due : s.line.timers.census = .running 0) (link : s.line.link = .census) :
      Effect s .censusTimerExpiry (({ s with line.timers.census := .idle, line.link := .on } : State).requestDemand true)
  | censusIdle (due : s.line.timers.census = .running 0) (link : s.line.link ≠ .census) :
      Effect s .censusTimerExpiry { s with line.timers.census := .idle }
  | heartbeat (due : s.line.timers.heartbeat = .running 0) (link : LinkState.counted s.line.link = true) :
      Effect s .heartbeatTimerExpiry (({ s with line.timers.heartbeat := .idle } : State).requestDemand false)
  | heartbeatIdle (due : s.line.timers.heartbeat = .running 0) : Effect s .heartbeatTimerExpiry { s with line.timers.heartbeat := .idle }
  | spacing (due : s.line.timers.spacing = .running 0) :
      Effect s .spacingTimerExpiry ({ s with line.timers.spacing := .idle } : State).judgeDemand
  | isolated (due : s.line.timers.isolation = .running 0) (link : LinkState.counted s.line.link = true) :
      Effect s .isolationTimerExpiry ({ s with line.timers.isolation := .idle, line.isolated := true } : State).enterHailing
  | isolationIdle (due : s.line.timers.isolation = .running 0) (link : LinkState.counted s.line.link = false) :
      Effect s .isolationTimerExpiry { s with line.timers.isolation := .idle }
  | leaveOver (due : s.line.timers.leave = .running 0) (link : s.line.link = .leaving) :
      Effect s .leaveTimerExpiry ({ s with line.timers.leave := .idle } : State).endLeaving
  | leaveIdle (due : s.line.timers.leave = .running 0) (link : s.line.link ≠ .leaving) :
      Effect s .leaveTimerExpiry { s with line.timers.leave := .idle }
  | muteOverEnabled (due : s.line.timers.mute = .running 0) (link : s.line.link = .mute) (en : s.pins.en = true) :
      Effect s .muteTimerExpiry ({ s with line.timers.mute := .idle } : State).hailFromMute
  | muteOverDisabled (due : s.line.timers.mute = .running 0) (link : s.line.link = .mute) (en : s.pins.en = false) :
      Effect s .muteTimerExpiry ({ s with line.timers.mute := .idle } : State).enterDown
  | muteIdle (due : s.line.timers.mute = .running 0) (link : s.line.link ≠ .mute) :
      Effect s .muteTimerExpiry { s with line.timers.mute := .idle }
  | silenced (n : Nat) (r : Row) (row : findRow n s.table = some r) (due : r.silenceDue = true) :
      Effect s (.rowSilence n) (s.putRowOf n (some (silenceRow r)))
  | released (c : Instr) (n : Nat) (r : Row) (row : findRow n s.table = some r) : Effect s c (s.putRowOf n none)
  | prechargeOver (running : s.bay.precharge.run = .running) :
      Effect s .prechargeCreditExpiry (s.putBay s.bay.prechargeTimeout)
  | chargeOver (running : s.bay.charge.run = .running) :
      Effect s .chargeCreditExpiry (s.putBay (s.bay.chargeTimeout (fullAtTimeout s.cfg s.store)))
  | statStep (due : s.stat.left = .running 0) : Effect s .statPatternStep { s with stat := s.stat.advance }

/-! ### A conversion and a frame -/

@[simp] theorem sampled_count (a : Accumulators) (v : Int) : (sampled a v).count = a.count + 1 := by
  unfold sampled
  split
  next first => rw [first]
  next => rfl

/-- A sample outside the window, or the last of its cycle, ends the cycle with one record (R114 to R116). -/
theorem exists_cycleEnds {s : State} {input : Int}
    (last : Outside s (sampleOf s.scan.pos.channel input) ∨ s.scan.pos.samples ≤ s.scan.acc.count + 1) : ∃ r, CycleEnds s input r := by
  classical
  let v := sampleOf s.scan.pos.channel input
  refine ⟨(sampled s.scan.acc v).record s.scan.pos.channel (if Outside s v then .limit else .complete), ?_, ?_, rfl, rfl, rfl, rfl, rfl, ?_⟩
  · simpa using last
  · by_cases outside : Outside s v <;> simp [Accumulators.record, v, outside]
  · simp only [Accumulators.record, sampled, v]
    split <;> rfl

/-- A sample inside the window that is not the last of its cycle joins it (R114). -/
theorem takeSample_inside {s : State} {input : Int} (fell : Bool) (inside : ¬Outside s (sampleOf s.scan.pos.channel input))
    (more : s.scan.acc.count + 1 < s.scan.pos.samples) :
    (s.seeEdge fell).tick.takeSample (clampSample s.scan.pos.channel input) = afterSample fell (sampleOf s.scan.pos.channel input) s := by
  unfold State.takeSample afterSample
  rw [sampled_eq]
  exact (if_neg (mt (outside_iff s _).2 inside)).trans (if_neg (Nat.not_le.2 more))

/-- A conversion of a released part takes its sample into the cycle, or ends the cycle with its record (R114, R115). -/
theorem conversion_effect (s : State) (input : Int) (fell : Bool) :
    Effect s (.conversion ⟨input, fell⟩) ((s.seeEdge fell).tick.takeSample (clampSample s.scan.pos.channel input)) := by
  by_cases last : Outside s (sampleOf s.scan.pos.channel input) ∨ s.scan.pos.samples ≤ s.scan.acc.count + 1
  · obtain ⟨r, ends⟩ := exists_cycleEnds last
    rw [takeSample_ended ends]
    exact .recorded input fell r ends
  · obtain ⟨inside, more⟩ := not_or.1 last
    rw [takeSample_inside fell inside (Nat.lt_of_not_le more)]
    exact .sampled input fell inside (Nat.lt_of_not_le more)

/-- A veto of this station's own is counted, and the eighth in a row mutes it (R73, R95). -/
theorem vetoWindow_true (s : State) :
    s.lineEnds.vetoWindow true =
      if vetoRunLimit ≤ s.line.vetoRun + 1 then (afterVeto s).enterMute else { afterVeto s with line.vetoRun := s.line.vetoRun + 1 } := rfl

theorem vetoWindow_false (s : State) : s.lineEnds.vetoWindow false = afterVeto s := rfl

theorem ownVeto_effect {s : State} {c : Instr} (takes : s.takesLine = true) (vetoes : VetoesBy s c) :
    Effect s c (s.lineEnds.vetoWindow true) := by
  rw [vetoWindow_true]
  split_ifs with reached
  · exact .muted c takes vetoes reached
  · exact .vetoedByThis c takes (Nat.lt_of_not_le reached)

/-- What a frame command leaves, the frame being handed to `deliver` where it is accepted (R74, R92, R93, R97). -/
theorem acceptFrame_effect {s : State} {c : Instr} {f : Frame} {deliver : Bool → State → State} (frame : c.frame? = some f)
    (delivered : ∀ own, Accepts s f → Origin s f own → Effect s c (deliver own (afterAccept own s))) :
    Effect s c (s.acceptFrame f deliver) := by
  cases takes : s.takesLine with
  | false =>
    rw [acceptFrame_unheard f deliver takes]
    exact .unheard c takes
  | true =>
    cases inRange : frameInRange f with
    | false =>
      have vetoed : s.acceptFrame f deliver = s.lineEnds.vetoWindow true := by simp [State.acceptFrame, takes, inRange]
      rw [vetoed]
      exact ownVeto_effect takes (.inr ⟨f, frame, inRange⟩)
    | true =>
      have accepts : Accepts s f := ⟨takes, inRange⟩
      obtain ⟨whenOwn, whenDuplicate, whenPeer⟩ := acceptFrame_accepted accepts deliver
      by_cases own : IsOwn s f
      · rw [whenOwn own]
        exact delivered true accepts (.inl ⟨rfl, own⟩)
      · by_cases number : s.ownNumber = some f.sender.toNat
        · rw [whenDuplicate own number]
          exact .duplicate c f frame accepts own number
        · rw [whenPeer ⟨own, number⟩]
          exact delivered false accepts (.inr ⟨rfl, own, number⟩)

theorem Origin.isOwn {s : State} {f : Frame} (h : Origin s f true) : IsOwn s f := by
  obtain ⟨-, own⟩ | ⟨no, -⟩ := h
  · exact own
  · cases no

theorem Origin.fromPeer {s : State} {f : Frame} (h : Origin s f false) : FromPeer s f := by
  obtain ⟨no, -⟩ | ⟨-, peer⟩ := h
  · cases no
  · exact peer

section Delivered

variable {s : State} {own : Bool}

theorem takeJoin_effect {n : Sender} {b : JoinBody} (accepts : Accepts s ⟨n, .join b⟩) (origin : Origin s ⟨n, .join b⟩ own) :
    Effect s (.join n b) ((afterAccept own s).takeJoin n b own) := by
  unfold State.takeJoin
  split
  next => exact .noBlock _ _ accepts.1
  next station link => exact .joinOwn n b accepts origin.isOwn station link
  next => exact .noBlock _ _ accepts.1
  next station => exact .joinPeer n b accepts origin.fromPeer station

theorem takeDemandFrame_effect {n : Sender} {b : DemandBody} (accepts : Accepts s ⟨n, .demand b⟩)
    (origin : Origin s ⟨n, .demand b⟩ own) : Effect s (.demand n b) ((afterAccept own s).takeDemandFrame n b own) := by
  unfold State.takeDemandFrame
  split
  next => exact .noBlock _ _ accepts.1
  next station => exact .demandPeer n b accepts origin.fromPeer station
  next station link => exact .demandOwn n b accepts origin.isOwn station ((counted_iff _).2 (.inl link))
  next station link => exact .demandOwn n b accepts origin.isOwn station ((counted_iff _).2 (.inr link))
  next => exact .demandAdopted n b accepts origin.isOwn
  next => exact .demandAdopted n b accepts origin.isOwn
  all_goals exact .noBlock _ _ accepts.1

theorem takeLeave_effect {n : Sender} {b : LeaveBody} (accepts : Accepts s ⟨n, .leave b⟩) (origin : Origin s ⟨n, .leave b⟩ own) :
    Effect s (.leave n b) ((afterAccept own s).takeLeave n b own) := by
  unfold State.takeLeave
  split
  next => exact .noBlock _ _ accepts.1
  next link => exact .leaveOwn n b accepts origin.isOwn link
  next => exact .noBlock _ _ accepts.1
  next station => exact .leavePeer n b accepts origin.fromPeer station

theorem takeQuery_effect {n : Sender} {q : QueryBody} (accepts : Accepts s ⟨n, .query q⟩) (origin : Origin s ⟨n, .query q⟩ own) :
    Effect s (.query n q) ((afterAccept own s).takeQuery n q own) := by
  unfold State.takeQuery
  split
  next answers =>
    obtain ⟨rfl, -, counted, room⟩ := answers
    split
    next r _ => exact .queryAnswered n q ⟨n, r⟩ accepts.1 counted room
    next => exact .noBlock _ _ accepts.1
  next => exact .noBlock _ _ accepts.1

end Delivered

/-! ### A command and a step -/

/-- What a command can answer: power-on values, the state as it stands, or one of its effects and then the end of the step. -/
inductive Stepped (s : State) : Instr → State → Prop where
  | powerOn : Stepped s .powerOn (s.powerOnValues .released s.fuses)
  | supplyMonitorReset : Stepped s .supplyMonitorReset (s.powerOnValues .held 0)
  | stood (c : Instr) : Stepped s c s
  | effect {c : Instr} {u : State} (effect : Effect s c u) : Stepped s c u.settle

theorem Effect.stepped_if {s u : State} {c : Instr} {p : Prop} [Decidable p] (effect : p → Effect s c u) :
    Stepped s c (if p then u else s).settle := by
  split_ifs with h
  · exact .effect (effect h)
  · exact .effect (.nothing c)

theorem frame_stepped {s : State} {c : Instr} {f : Frame} {deliver : Bool → State → State} (frame : c.frame? = some f)
    (delivered : ∀ own, Accepts s f → Origin s f own → Effect s c (deliver own (afterAccept own s))) :
    Stepped s c (s.acceptFrame f deliver).settle := .effect (acceptFrame_effect frame delivered)

theorem conversion_stepped (s : State) (x : ConversionInput) : ∃ t, exec (.conversion x) s = .next t ∧ Stepped s (.conversion x) t := by
  refine ⟨_, rfl, ?_⟩
  split
  next => exact .stood _
  next => exact .effect (conversion_effect s x.value x.shlFell)

theorem frameVetoed_stepped (s : State) (rx : Reception) : ∃ t, exec (.frameVetoed rx) s = .next t ∧ Stepped s (.frameVetoed rx) t := by
  refine ⟨_, rfl, .effect ?_⟩
  split_ifs with takes
  · cases vetoes : s.vetoes rx with
    | true => exact ownVeto_effect takes (.inl ⟨rx, rfl, vetoes⟩)
    | false => exact .vetoedByOthers rx takes
  · exact .unheard _ (Bool.eq_false_iff.2 takes)

theorem enEdge_stepped (c : Instr) (s : State) (edge : c = .enRise ∨ c = .enFall) : ∃ t, exec c s = .next t ∧ Stepped s c t := by
  rcases edge with rfl | rfl
  · refine ⟨_, rfl, .effect ?_⟩
    dsimp only
    split_ifs with enters
    · exact .enabled enters.1 enters.2
    · exact .enLevel _ true
  · refine ⟨_, rfl, .effect ?_⟩
    dsimp only
    split
    next link => exact .disabledCounted ((counted_iff _).2 (.inl link))
    next link => exact .disabledCounted ((counted_iff _).2 (.inr link))
    next link => exact .disabledHailing link
    all_goals exact .enLevel _ false

theorem rowCommand_stepped (c : Instr) (s : State) (n : Nat) (row : c = .rowSilence n ∨ c = .silentRowRelease n ∨ c = .disputedRowRelease n) :
    ∃ t, exec c s = .next t ∧ Stepped s c t := by
  rcases row with rfl | rfl | rfl <;> refine ⟨_, rfl, ?_⟩ <;> split
  next r row => exact Effect.stepped_if fun due => .silenced n r row due
  next => exact .effect (.nothing _)
  next r row => exact Effect.stepped_if fun _ => .released _ n r row
  next => exact .effect (.nothing _)
  next r row => exact Effect.stepped_if fun _ => .released _ n r row
  next => exact .effect (.nothing _)

/-- The timers of station life: each expiry has its effect in its link states and only makes the timer idle elsewhere (log 26). -/
theorem lifeTimer_stepped (c : Instr) (s : State)
    (timer : c = .censusTimerExpiry ∨ c = .heartbeatTimerExpiry ∨ c = .spacingTimerExpiry ∨ c = .isolationTimerExpiry ∨
      c = .leaveTimerExpiry ∨ c = .muteTimerExpiry) : ∃ t, exec c s = .next t ∧ Stepped s c t := by
  rcases timer with rfl | rfl | rfl | rfl | rfl | rfl <;> refine ⟨_, rfl, Effect.stepped_if fun due => ?_⟩ <;> rw [due_iff] at due <;>
    dsimp only
  · split_ifs with link
    · exact .censusOver due link
    · exact .censusIdle due link
  · split_ifs with link
    · exact .heartbeat due link
    · exact .heartbeatIdle due
  · exact .spacing due
  · split_ifs with link
    · exact .isolated due link
    · exact .isolationIdle due (Bool.eq_false_iff.2 link)
  · split_ifs with link
    · exact .leaveOver due link
    · exact .leaveIdle due link
  · split_ifs with link en
    · exact .muteOverEnabled due link en
    · exact .muteOverDisabled due link (Bool.eq_false_iff.2 en)
    · exact .muteIdle due link

theorem quietTimer_stepped (s : State) : ∃ t, exec .quietTimerExpiry s = .next t ∧ Stepped s .quietTimerExpiry t := by
  refine ⟨_, rfl, Effect.stepped_if fun due => ?_⟩
  rw [due_iff] at due
  split_ifs with down
  · exact .quietStep due down.1 down.2
  · exact .quietOver due

/-- Every command answers a next state, and by one of these ways. -/
theorem exec_stepped (c : Instr) (s : State) : ∃ t, exec c s = .next t ∧ Stepped s c t := by
  cases c with
  | powerOn => exact ⟨_, rfl, .powerOn⟩
  | supplyMonitorReset => exact ⟨_, rfl, .supplyMonitorReset⟩
  | conversion x => exact conversion_stepped s x
  | shlIdle => exact ⟨_, rfl, .effect (.lineIdle _)⟩
  | admissionOnQuietLine =>
    refine ⟨_, rfl, ?_⟩
    split_ifs
    · exact .effect (.lineIdle _)
    · exact .stood _
  | join n b => exact ⟨_, rfl, frame_stepped rfl fun _ => takeJoin_effect⟩
  | demand n b => exact ⟨_, rfl, frame_stepped rfl fun _ => takeDemandFrame_effect⟩
  | leave n b => exact ⟨_, rfl, frame_stepped rfl fun _ => takeLeave_effect⟩
  | query n q => exact ⟨_, rfl, frame_stepped rfl fun _ => takeQuery_effect⟩
  | report n b => exact ⟨_, rfl, frame_stepped rfl fun own accepts _ => .noBlock _ own accepts.1⟩
  | unassignedKindFrame k n bytes => exact ⟨_, rfl, frame_stepped rfl fun own accepts _ => .noBlock _ own accepts.1⟩
  | frameVetoed rx => exact frameVetoed_stepped s rx
  | enRise => exact enEdge_stepped _ s (.inl rfl)
  | enFall => exact enEdge_stepped _ s (.inr rfl)
  | almFallingEdge => exact ⟨_, rfl, .effect .alarmFell⟩
  | almRisingEdge => exact ⟨_, rfl, .effect .alarmRose⟩
  | raiseHoldExpiry => exact ⟨_, rfl, Effect.stepped_if fun due => .holdExpired ((due_iff _).1 due)⟩
  | almDriveEnd => exact ⟨_, rfl, Effect.stepped_if fun due => .driveEnded ((due_iff _).1 due)⟩
  | rearmTimerExpiry => exact ⟨_, rfl, Effect.stepped_if fun due => .rearmed ((dueByEnd_iff _).1 due)⟩
  | lowTimerExpiry => exact ⟨_, rfl, Effect.stepped_if fun due => .stuck ((due_iff _).1 due)⟩
  | quietTimerExpiry => exact quietTimer_stepped s
  | censusTimerExpiry | heartbeatTimerExpiry | spacingTimerExpiry | isolationTimerExpiry | leaveTimerExpiry | muteTimerExpiry =>
    exact lifeTimer_stepped _ s (by simp)
  | rowSilence n | silentRowRelease n | disputedRowRelease n => exact rowCommand_stepped _ s n (by simp)
  | prechargeCreditExpiry => exact ⟨_, rfl, Effect.stepped_if fun due => .prechargeOver ((creditDue_iff _ _ _).1 due).1⟩
  | chargeCreditExpiry => exact ⟨_, rfl, Effect.stepped_if fun due => .chargeOver ((creditDue_iff _ _ _).1 due).1⟩
  | statPatternStep => exact ⟨_, rfl, Effect.stepped_if fun due => .statStep ((due_iff _).1 due)⟩

theorem stepped_of_exec {c : Instr} {s t : State} (h : exec c s = .next t) : Stepped s c t := by
  obtain ⟨t', answer, stepped⟩ := exec_stepped c s
  rw [h, Host.Outcome.next.injEq] at answer
  exact answer ▸ stepped

/-- An invariant that reads nothing of the queue of commands, holds at power-on, and is kept by every effect and by the end of the step wherever
Q holds before it, is kept by every step from a state with Q. -/
theorem step_keeps_under {P Q : State → Prop} (queueQ : ∀ s q, Q s → Q { s with pending := q }) (queue : ∀ s q, P s → P { s with pending := q })
    (powerOn : ∀ s power tag, P s → P (s.powerOnValues power tag))
    (effect : ∀ s c u, Q s → P s → Effect s c u → P u.settle) {s t : State} (under : Q s) (h : P s) (run : step s = .next t) : P t := by
  unfold step at run
  split at run
  next => cases run; exact h
  next c rest _ =>
    cases stepped_of_exec run with
    | powerOn | supplyMonitorReset => exact powerOn _ _ _ (queue s rest h)
    | stood => exact queue s rest h
    | effect e => exact effect _ _ _ (queueQ s rest under) (queue s rest h) e

theorem step_keeps {P : State → Prop} (queue : ∀ s q, P s → P { s with pending := q })
    (powerOn : ∀ s power tag, P s → P (s.powerOnValues power tag))
    (effect : ∀ s c u, P s → Effect s c u → P u.settle) {s t : State} (h : P s) (run : step s = .next t) : P t :=
  step_keeps_under (Q := fun _ => True) (fun _ _ _ => trivial) queue powerOn (fun s c u _ => effect s c u) trivial h run

end Sys2Proof.Machine
end

section
/-! PROOFS. What the delivery of a record can do, and that no record and no timeout puts an unsound bay before the bay controller. -/

namespace Sys2Proof.Machine

set_option Elab.async false

/-! ### Sound bays (R129, R140) -/

theorem fast_le (c : ConfigRecord) : c.fast ≤ 160 := by
  unfold ConfigRecord.fast fastCodeOf
  omega

theorem capped_le (c : ConfigRecord) (foldback : Bool) (units : Nat) : capped c foldback units ≤ units := by
  unfold capped
  split_ifs
  · exact min_le_left _ _
  · exact le_rfl

theorem zero_le_settings : (0 : Rat) ≤ prechargeSetting ∧ (0 : Rat) ≤ chargeSetting := by
  constructor <;> norm_num [prechargeSetting, chargeSetting]

theorem enterFault_sound {b : BayController} (h : BaySound b) (cause : FaultCause) : BaySound (b.enterFault cause) := by
  obtain ⟨-, taper, p0, p1, c0, c1, -⟩ := h
  exact ⟨Nat.zero_le _, taper, p0, p1, c0, c1, rfl, rfl⟩

theorem enterQualify_sound {b : BayController} (h : BaySound b) : BaySound b.enterQualify := by
  obtain ⟨term, taper, -⟩ := h
  exact ⟨term, taper, le_rfl, zero_le_settings.1, le_rfl, zero_le_settings.2, rfl, rfl⟩

theorem remove_sound (b : BayController) : BaySound b.remove :=
  ⟨Nat.zero_le _, Nat.zero_le _, le_rfl, zero_le_settings.1, le_rfl, zero_le_settings.2, rfl, rfl⟩

theorem prechargeTimeout_sound {b : BayController} (h : BaySound b) : BaySound b.prechargeTimeout := by
  obtain ⟨-, taper, -, -, c0, c1, -⟩ := h
  exact ⟨Nat.zero_le _, taper, zero_le_settings.1, le_rfl, c0, c1, rfl, rfl⟩

theorem chargeTimeout_sound {b : BayController} (h : BaySound b) (full : Bool) : BaySound (b.chargeTimeout full) := by
  obtain ⟨-, taper, p0, p1, -, -, -⟩ := h
  exact ⟨Nat.zero_le _, taper, p0, p1, zero_le_settings.2, le_rfl, rfl, rfl⟩

theorem overvoltage_sound {b : BayController} (h : BaySound b) : BaySound b.overvoltage := by
  unfold BayController.overvoltage
  split
  next => exact h
  next => exact h
  next phase =>
    obtain ⟨term, taper, p0, p1, c0, c1, credits⟩ := h
    rw [phase] at credits
    exact ⟨term, taper, p0, p1, c0, c1, credits⟩
  all_goals exact enterFault_sound h _

theorem takeVoltage_sound {b : BayController} (h : BaySound b) (c : ConfigRecord) (average : Int) : BaySound (b.takeVoltage c average) := by
  have ⟨term, taper, p0, p1, c0, c1, credits⟩ := h
  obtain ⟨pre, chg⟩ := zero_le_settings
  unfold BayController.takeVoltage
  cases phase : b.phase with
  | qualify =>
    rw [phase] at credits
    dsimp only
    split_ifs
    · exact ⟨term, taper, le_rfl, pre, c0, c1, rfl, credits.2⟩
    · exact ⟨term, taper, p0, p1, c0, c1, credits⟩
    · exact ⟨term, taper, p0, p1, le_rfl, chg, credits.1, rfl⟩
  | charging p =>
    rw [phase] at credits
    cases p <;> dsimp only
    case taper => exact h
    all_goals split_ifs
    case pos => exact ⟨term, taper, p0, p1, le_rfl, chg, rfl, rfl⟩
    case pos => exact ⟨Nat.zero_le _, (capped_le _ _ _).trans (fast_le c), p0, p1, c0, c1, credits⟩
    all_goals exact h
  | done =>
    dsimp only
    split_ifs
    · exact enterQualify_sound h
    · exact h
  | fault cause =>
    rcases cause with _ | (_ | _) | _ | _ | _ <;> dsimp only
    case chargeTimeout.true =>
      split_ifs
      · exact enterQualify_sound h
      · exact h
    all_goals exact h
  | vacant | hold => exact h

theorem judgeTermination_sound {b : BayController} (h : BaySound b) (taper : b.phase = .charging .taper) (c : ConfigRecord) (limit : Nat)
    (average : Int) : BaySound (b.judgeTermination c limit average) := by
  obtain ⟨term, value, p0, p1, c0, c1, credits⟩ := h
  unfold BayController.judgeTermination
  split_ifs with ends twice
  · rw [taper] at credits
    exact ⟨Nat.zero_le _, value, p0, p1, c0, c1, credits.1, rfl⟩
  · exact ⟨by show b.termCount + 1 ≤ 1; omega, value, p0, p1, c0, c1, credits⟩
  · exact ⟨Nat.zero_le _, value, p0, p1, c0, c1, credits⟩

theorem takeHeat_sound {b : BayController} (h : BaySound b) (c : ConfigRecord) (average : Int) : BaySound (b.takeHeat c average) := by
  obtain ⟨term, value, bounds⟩ := h
  unfold BayController.takeHeat
  split_ifs
  · split
    next => exact ⟨term, (min_le_left _ _).trans value, bounds⟩
    next => exact ⟨term, (min_le_left _ _).trans value, bounds⟩
    next => exact ⟨term, value, bounds⟩
  all_goals exact ⟨term, value, bounds⟩

theorem judgeHeat_sound {b : BayController} (h : BaySound b) (average : Int) : BaySound (b.judgeHeat average) := by
  unfold BayController.judgeHeat
  split
  next => split_ifs; exacts [enterQualify_sound h, h]
  next => exact h
  next => exact h
  all_goals split_ifs; exacts [enterFault_sound h _, h]

theorem takePid_sound {b : BayController} (h : BaySound b) (cls : PidClass) : BaySound (b.takePid cls) := by
  cases cls with
  | openPin => rw [takePid_openPin]; split_ifs; exacts [h, remove_sound b]
  | valid => rw [takePid_valid]; split_ifs; exacts [enterQualify_sound h, h]
  | short => rw [takePid_short]; split_ifs; exacts [enterFault_sound h _, h]

/-! ### The delivery of a record (R119) -/

/-- The channel is one of the strap pass (R120). -/
def Channel.ofStrap : Channel → Bool
  | .strapa | .strapb | .strapc => true
  | .feedv | .bayv | .bayi | .diet | .pid => false

theorem inStrapPass_eq (p : ScanPos) : p.inStrapPass = Channel.ofStrap p.channel := by cases p <;> rfl

theorem channel_eq_strapc_iff (p : ScanPos) : p.channel = .strapc ↔ p = .s3 := by cases p <;> simp [ScanPos.channel]

/-- What the feed watch makes of a FEEDV record (R100, R101): the droop count, or a pulse on ALM with the count 0. -/
inductive DroopNoted (f : FeedWatch) : FeedWatch → Prop where
  | counted (k : Nat) (small : k ≤ 1) : DroopNoted f { f with droop := k }
  | pulse : DroopNoted f { f with droop := 0, drive := .start almDriveMs, rearm := .start rearmMs }

/-- What the delivery of a record leaves: the feed watch noted, one or two inner states put before the bay controller, a strap's result, or
the end of the strap pass. -/
inductive Delivered (v : State) (r : Reading) : State → Prop where
  | watched (f : FeedWatch) (running : Channel.ofStrap r.channel = false) (noted : DroopNoted v.feed f) : Delivered v r { v with feed := f }
  | kept (running : Channel.ofStrap r.channel = false) : Delivered v r v
  | bay (b : BayController) (running : Channel.ofStrap r.channel = false) (sound : BaySound v.bay → BaySound b) : Delivered v r (v.putBay b)
  | bayTwice (b b' : BayController) (running : Channel.ofStrap r.channel = false) (sound : BaySound v.bay → BaySound b') :
      Delivered v r ((v.putBay b).putBay b')
  | strapRead (d : StrapDecoder) (channel : r.channel = .strapa ∨ r.channel = .strapb) : Delivered v r { v with straps := d }
  | passEnds (channel : r.channel = .strapc) (c : ConfigRecord) (number : ∀ n, c.station = some n → 1 ≤ n ∧ n ≤ 16) :
      Delivered v r (v.withConfig c).leaveStrapPass

theorem takeFeedv_noted (r : Reading) (v : State) : ∃ f, v.takeFeedv r = { v with feed := f } ∧ DroopNoted v.feed f := by
  cases ending : r.ending with
  | complete => exact ⟨_, takeFeedv_of_complete ending v, .counted 0 (Nat.zero_le _)⟩
  | limit =>
    rcases Nat.eq_zero_or_pos v.feed.droop with first | later
    · exact ⟨_, takeFeedv_of_first_limit ending first, .counted 1 le_rfl⟩
    · rw [takeFeedv_of_later_limit ending later]
      by_cases drives : ({ v with feed.droop := 0 } : State).droopDrives
      · exact ⟨_, droopEvent_of_drives drives, .pulse⟩
      · exact ⟨_, droopEvent_of_not_drives drives, .counted 0 (Nat.zero_le _)⟩

theorem takeBayi_delivered {r : Reading} (v : State) (running : Channel.ofStrap r.channel = false) : Delivered v r (v.takeBayi r) := by
  have first (h : BaySound v.bay) : BaySound { v.bay with
      taperValue := capped v.cfg v.bay.foldback (min (taperUnits r.average) v.cfg.fast) } := by
    obtain ⟨term, -, bounds⟩ := h
    exact ⟨term, (capped_le _ _ _).trans ((min_le_right _ _).trans (fast_le _)), bounds⟩
  unfold State.takeBayi
  split
  next =>
    dsimp only
    split
    next taper => exact .bayTwice _ _ running fun h => judgeTermination_sound (putBay_bayInv (first h) v).sound taper _ _ _
    next => exact .bay _ running first
  next => exact .kept running

theorem loadConfig_station {tag : Tag} {sa sb : Option StrapResult} {c : StrapResult} {n : Nat}
    (h : (loadConfig tag sa sb c).station = some n) : 1 ≤ n ∧ n ≤ 16 := by
  unfold loadConfig at h
  split at h
  next a b =>
    split_ifs at h with valid
    · obtain ⟨-, -, -, low, high⟩ := (strapsValid_iff a b c).1 valid
      cases h
      exact ⟨low, high⟩
    · cases h
  next => cases h

theorem deliver_delivered (r : Reading) (v : State) : Delivered v r (v.deliver r) := by
  cases channel : r.channel with
  | feedv =>
    rw [deliver_of_feedv channel]
    obtain ⟨f, taken, noted⟩ := takeFeedv_noted r v
    rw [taken]
    exact .watched f (by rw [channel]; rfl) noted
  | bayv =>
    have running : Channel.ofStrap r.channel = false := by rw [channel]; rfl
    have taken : v.deliver r = v.takeBayv r := by simp only [State.deliver, channel]
    rw [taken, State.takeBayv]
    split
    · exact .bay _ running overvoltage_sound
    · exact .bay _ running fun h => takeVoltage_sound h _ _
  | bayi =>
    have taken : v.deliver r = v.takeBayi r := by simp only [State.deliver, channel]
    rw [taken]
    exact takeBayi_delivered v (by rw [channel]; rfl)
  | diet =>
    rw [deliver_of_diet channel]
    exact .bay _ (by rw [channel]; rfl) fun h => judgeHeat_sound (takeHeat_sound h _ _) _
  | pid =>
    rw [deliver_of_pid channel]
    exact .bay _ (by rw [channel]; rfl) fun h => takePid_sound h _
  | strapa =>
    have taken : v.deliver r = { v with straps.sa := some (strapResult r) } := by simp only [State.deliver, channel]
    rw [taken]
    exact .strapRead _ (.inl channel)
  | strapb =>
    have taken : v.deliver r = { v with straps.sb := some (strapResult r) } := by simp only [State.deliver, channel]
    rw [taken]
    exact .strapRead _ (.inr channel)
  | strapc =>
    rw [deliver_of_strapc channel, endStrapPass_eq]
    exact .passEnds channel _ fun _ => loadConfig_station

end Sys2Proof.Machine
end

section
/-! PROOFS. The share rule row by row: what a recompute makes of each row, that it reads its listed inputs alone, how the excess goes
through the classes and through the rows of one class; and the obligations on these. -/

namespace Sys2Proof.Machine

set_option Elab.async false

/-! ### One row of a recompute (R24, R34) -/

section SetGrantFields

variable (r : Row) (g : Nat) (m : Bool)

@[simp] theorem Row.setGrant_name : (r.setGrant g m).name = r.name := by
  obtain ⟨_, status⟩ := r; cases status <;> rfl
@[simp] theorem Row.setGrant_tag : (r.setGrant g m).tag = r.tag := by
  obtain ⟨_, status⟩ := r; cases status <;> rfl
@[simp] theorem Row.setGrant_sb : (r.setGrant g m).sb = r.sb := by
  obtain ⟨_, status⟩ := r; cases status <;> rfl
@[simp] theorem Row.setGrant_sc : (r.setGrant g m).sc = r.sc := by
  obtain ⟨_, status⟩ := r; cases status <;> rfl
@[simp] theorem Row.setGrant_age : (r.setGrant g m).age = r.age := by
  obtain ⟨_, status⟩ := r; cases status <;> rfl

end SetGrantFields

/-- What a recompute makes of one row. -/
def recomputeRow (rows : List Row) (stage : Nat) (r : Row) : Row :=
  match capacityBasis rows with
  | none => r
  | some basis => writeClaim (allClaims rows stage basis) r

theorem recomputeRows_eq_map (rows : List Row) (stage : Nat) : recomputeRows rows stage = rows.map (recomputeRow rows stage) := by
  cases basis : capacityBasis rows with
  | none =>
    have same : ∀ r ∈ rows, recomputeRow rows stage r = r := fun r _ => by simp only [recomputeRow, basis]
    rw [List.map_congr_left same, List.map_id', recomputeRows, basis]
  | some basis' => simp [recomputeRows, recomputeRow, basis]

theorem capacityBasis_isSome {rows : List Row} {r : Row} (hr : r ∈ rows) (live : r.live = true) : ∃ basis, capacityBasis rows = some basis := by
  cases h : capacityBasis rows with
  | some basis => exact ⟨basis, rfl⟩
  | none =>
    simp only [capacityBasis, liveRows, List.min?_eq_none_iff, List.map_eq_nil_iff, List.filter_eq_nil_iff] at h
    exact absurd live (h r hr)

/-- A reserved row stays as it is (R24). -/
theorem recomputeRow_of_not_live {r : Row} (h : r.live = false) (rows : List Row) (stage : Nat) : recomputeRow rows stage r = r := by
  unfold recomputeRow writeClaim
  split
  next => rfl
  next =>
    split
    · exact Row.setGrant_of_not_live h _ _
    · rfl

/-- A live row takes what a claim of its station comes to; whatever the order of the table. -/
theorem recomputeRow_of_live {rows : List Row} {r : Row} (hr : r ∈ rows) (live : r.live = true) (stage : Nat) :
    ∃ basis c, c ∈ allClaims rows stage basis ∧ recomputeRow rows stage r = r.setGrant c.grant c.starved := by
  obtain ⟨basis, hbasis⟩ := capacityBasis_isSome hr live
  obtain ⟨d, hd, row⟩ := List.mem_map.1 ((allClaims_rows_perm rows stage basis).symm.subset (List.mem_filter.2 ⟨hr, live⟩))
  simp only [recomputeRow, hbasis, writeClaim]
  split
  next c found => exact ⟨basis, c, List.mem_of_find?_eq_some found, rfl⟩
  next missing => exact absurd (congrArg Row.station row) (by simpa using List.find?_eq_none.1 missing d hd)

/-- In a table in its order, the claim is the row's own. -/
theorem recomputeRow_written {rows : List Row} (ordered : rows.Pairwise fun a b => a.station < b.station) {r : Row} (hr : r ∈ rows)
    (live : r.live = true) (stage : Nat) :
    ∃ basis c, capacityBasis rows = some basis ∧ c ∈ allClaims rows stage basis ∧ c.row = r ∧ recomputeRow rows stage r = c.written := by
  obtain ⟨basis, hbasis⟩ := capacityBasis_isSome hr live
  obtain ⟨c, hc, rfl⟩ := List.mem_map.1 ((allClaims_rows_perm rows stage basis).symm.subset (List.mem_filter.2 ⟨hr, live⟩))
  refine ⟨basis, c, hbasis, hc, rfl, ?_⟩
  simp only [recomputeRow, hbasis]
  exact writeClaim_row ordered hc

@[simp] theorem recomputeRow_live (rows : List Row) (stage : Nat) (r : Row) : (recomputeRow rows stage r).live = r.live := by
  unfold recomputeRow
  split
  · rfl
  · exact writeClaim_live _ _

@[simp] theorem recomputeRow_station (rows : List Row) (stage : Nat) (r : Row) : (recomputeRow rows stage r).station = r.station := by
  unfold recomputeRow writeClaim
  split
  · rfl
  · split <;> simp

@[simp] theorem recomputeRow_isActive (rows : List Row) (stage : Nat) (r : Row) : (recomputeRow rows stage r).isActive = r.isActive := by
  unfold recomputeRow writeClaim
  split
  · rfl
  · split <;> simp

section ClaimGrant

variable {rows : List Row} {stage basis : Nat} {c : Claim} (h : c ∈ allClaims rows stage basis)

include h

/-- A claim that is not starved comes to its floor and its excess. -/
theorem Claim.grant_of_not_starved (starved : c.starved = false) : c.grant = floorUnits + c.excess := by
  have floor := allClaims_floor h
  simp only [starved, Bool.false_eq_true, if_false] at floor
  rw [Claim.grant, floor]

/-- A claim comes to nothing or to a floor at least (R34). -/
theorem Claim.grant_zero_or_floor : c.grant = 0 ∨ 4 ≤ c.grant := by
  cases starved : c.starved with
  | true => exact .inl (Claim.grant_of_starved h starved)
  | false =>
    right
    rw [Claim.grant_of_not_starved h starved]
    exact Nat.le_add_right _ _

/-- No claim comes to more than its demand, or to a floor where that is more (R34). -/
theorem Claim.grant_le : c.grant ≤ max c.row.demand 4 := by
  have floor := allClaims_floor h
  have excess := allClaims_excess_le h
  have want : c.want ≤ c.row.demand - floorUnits := by unfold Claim.want; split_ifs <;> omega
  have floor_le : c.floor ≤ floorUnits := by rw [floor]; split_ifs <;> simp [floorUnits]
  simp only [Claim.grant, floorUnits] at *
  omega

/-- A row that is not ACTIVE takes no excess (R31, R34). -/
theorem Claim.grant_of_not_active (active : c.row.isActive = false) (starved : c.starved = false) : c.grant = 4 := by
  have excess := allClaims_excess_le h
  simp only [Claim.want, active, Bool.false_and, Bool.false_eq_true, if_false, Nat.le_zero] at excess
  rw [Claim.grant_of_not_starved h starved, excess]
  rfl

end ClaimGrant

/-- Settles O23: a live row is its claim, written, and the claim's forms are the grant's. -/
theorem grantForms : Obligations.GrantForms := by
  intro rows stage ⟨ordered, wf⟩
  rw [recomputeRows_eq_map, List.forall₂_map_right_iff, List.forall₂_same]
  intro r hr
  cases live : r.live with
  | false =>
    rw [recomputeRow_of_not_live live]
    exact ⟨rfl, rfl, rfl, rfl, rfl, rfl, rfl, fun _ => rfl, fun h => absurd h (by simp [live])⟩
  | true =>
    obtain ⟨basis, c, -, hc, rfl, written⟩ := recomputeRow_written ordered hr live stage
    have demand : c.row.demand ≤ 160 := by
      have := wf _ hr
      simp only [Row.wf, Bool.and_eq_true, decide_eq_true_eq] at this
      exact this.1.2.2.1
    have grant_le := Claim.grant_le hc
    rw [written]
    refine ⟨?_, ?_, ?_, ?_, ?_, ?_, ?_, nofun, fun _ => ?_⟩
    iterate 7 simp [Claim.written]
    rw [Claim.written_starved hc, Claim.written_grant hc]
    simp only [Claim.written, Row.setGrant_isActive, Row.setGrant_demand]
    refine ⟨Claim.grant_of_starved hc, fun starved active => Claim.grant_of_not_active hc active starved, fun starved _ => ⟨?_, grant_le⟩, ?_⟩
    · rw [Claim.grant_of_not_starved hc starved]
      exact Nat.le_add_right _ _
    · omega

/-! ### The listed inputs (R24) -/

/-- The row that has a given input of the share rule and nothing else of its own. -/
def rowOfInput : Nat × RowName × Nat × Nat × Nat × Nat → Row
  | (station, name, classNo, capacity, demand, frozen) =>
    { station := station
      status := match name with
        | .active => .active 0 false
        | .joining => .joining 0 false
        | .absent | .silent | .disputed => .silent frozen
      tag := 0, sb := BitVec.ofNat 5 (8 * classNo), sc := BitVec.ofNat 5 capacity, demand := demand, age := 0 }

/-- A row stripped of all that the share rule does not read. -/
def Row.bare (r : Row) : Row := rowOfInput (ruleInput r)

def Claim.bare (c : Claim) : Claim := { c with row := c.row.bare }

section Bare

variable (r : Row)

@[simp] theorem Row.bare_station : r.bare.station = r.station := by
  obtain ⟨_, status⟩ := r; cases status <;> rfl
@[simp] theorem Row.bare_live : r.bare.live = r.live := by
  obtain ⟨_, status⟩ := r; cases status <;> rfl
@[simp] theorem Row.bare_isActive : r.bare.isActive = r.isActive := by
  obtain ⟨_, status⟩ := r; cases status <;> rfl
@[simp] theorem Row.bare_frozen : r.bare.frozen = r.frozen := by
  obtain ⟨_, status⟩ := r; cases status <;> rfl

theorem Row.bare_classNo {r : Row} (h : r.live = true) : r.bare.classNo = r.classNo := by
  have := r.sb.isLt
  simp only [Row.bare, ruleInput, h, if_true, rowOfInput, Row.classNo, classOf, BitVec.toNat_ofNat]
  omega

theorem Row.bare_feedCapacity {r : Row} (h : r.live = true) : feedCapacityOf r.bare.sc = feedCapacityOf r.sc := by
  simp only [Row.bare, ruleInput, h, if_true, rowOfInput, feedCapacityOf, capacityCodeOf, BitVec.toNat_ofNat]
  omega

theorem Row.bare_demand {r : Row} (h : r.isActive = true) : r.bare.demand = r.demand := by
  simp [Row.bare, ruleInput, Row.live_of_isActive h, h, rowOfInput]

end Bare

@[simp] theorem Claim.bare_want (c : Claim) : c.bare.want = c.want := by
  simp only [Claim.want, Claim.bare, Row.bare_isActive]
  cases active : c.row.isActive with
  | true => rw [Row.bare_demand active]
  | false => simp

@[simp] theorem Claim.bare_unsatisfied (c : Claim) : c.bare.unsatisfied = c.unsatisfied := by
  simp only [Claim.unsatisfied, Claim.bare_want]
  rfl

@[simp] theorem Claim.bare_withExcess (c : Claim) (e : Nat) : ({ c with excess := e } : Claim).bare = { c.bare with excess := e } := rfl
@[simp] theorem Claim.bare_excess (c : Claim) : c.bare.excess = c.excess := rfl

theorem evenShare_bare (s : Nat) (c : Claim) : evenShare s c.bare = (evenShare s c).bare := by
  unfold evenShare
  simp only [Claim.bare_unsatisfied, Claim.bare_want]
  split_ifs <;> rfl

theorem excessTotal_bare (cs : List Claim) : excessTotal (cs.map Claim.bare) = excessTotal cs := by
  simp [excessTotal, Function.comp_def]

theorem countP_bare (cs : List Claim) : (cs.map Claim.bare).countP Claim.unsatisfied = cs.countP Claim.unsatisfied := by
  simp [List.countP_map, Function.comp_def]

theorem oddUnits_bare (cs : List Claim) (left : Nat) : oddUnits (cs.map Claim.bare) left = (oddUnits cs left).map Claim.bare := by
  fun_induction oddUnits cs left with
  | case1 => rfl
  | case2 c cs left given ih => simp [oddUnits, given, ih, -Bool.and_eq_true]
  | case3 c cs left passed ih => simp [oddUnits, passed, ih, -Bool.and_eq_true]

theorem classRounds_bare (fuel : Nat) (cs : List Claim) (left : Nat) :
    classRounds fuel (cs.map Claim.bare) left = ((classRounds fuel cs left).1.map Claim.bare, (classRounds fuel cs left).2) := by
  have round (s : Nat) (cs : List Claim) : (cs.map Claim.bare).map (evenShare s) = (cs.map (evenShare s)).map Claim.bare := by
    simp [evenShare_bare]
  induction fuel generalizing cs left with
  | zero => rfl
  | succ fuel ih =>
    simp only [classRounds, countP_bare, round, excessTotal_bare, oddUnits_bare, ih]
    split_ifs <;> rfl

theorem giveFloors_bare (rs : List Row) (left : Nat) :
    giveFloors (rs.map Row.bare) left = ((giveFloors rs left).1.map Claim.bare, (giveFloors rs left).2) := by
  fun_induction giveFloors rs left with
  | case1 => rfl
  | case2 r rs left enough rest ih => simp [giveFloors, enough, ih, rest, Claim.bare]
  | case3 r rs left short rest ih => simp [giveFloors, short, ih, rest, Claim.bare]

theorem filter_class_bare {cs : List Claim} (live : ∀ c ∈ cs, c.row.live = true) (k : Nat) :
    (cs.map Claim.bare).filter (fun c => c.row.classNo == k) = (cs.filter fun c => c.row.classNo == k).map Claim.bare := by
  rw [List.filter_map]
  refine congrArg _ (List.filter_congr fun c hc => ?_)
  simp only [Function.comp, Claim.bare, Row.bare_classNo (live c hc)]

theorem shareClasses_bare {cs : List Claim} (live : ∀ c ∈ cs, c.row.live = true) (ks : List Nat) (left : Nat) :
    shareClasses ks (cs.map Claim.bare) left = (shareClasses ks cs left).map Claim.bare := by
  induction ks generalizing left with
  | nil => rfl
  | cons k ks ih => simp only [shareClasses, filter_class_bare live, List.length_map, classRounds_bare, ih, List.map_append]

theorem liveRows_bare (rows : List Row) : liveRows (rows.map Row.bare) = (liveRows rows).map Row.bare := by
  simp [liveRows, List.filter_map, Function.comp_def]

theorem floorOrder_bare (rows : List Row) : floorOrder (rows.map Row.bare) = (floorOrder rows).map Row.bare := by
  simp only [floorOrder, List.map_flatMap, liveRows_bare, List.filter_map]
  refine congrArg (List.range 4).flatMap (funext fun k => congrArg _ (List.filter_congr fun r hr => ?_))
  simp only [Function.comp, Row.bare_classNo (List.mem_filter.1 hr).2]

theorem capacityBasis_bare (rows : List Row) : capacityBasis (rows.map Row.bare) = capacityBasis rows := by
  simp only [capacityBasis, liveRows_bare, List.map_map]
  refine congrArg List.min? (List.map_congr_left fun r hr => ?_)
  exact Row.bare_feedCapacity (List.mem_filter.1 hr).2

theorem allClaims_bare (rows : List Row) (stage basis : Nat) :
    allClaims (rows.map Row.bare) stage basis = (allClaims rows stage basis).map Claim.bare := by
  have start : startingRemainder (rows.map Row.bare) stage basis = startingRemainder rows stage basis := by
    simp [startingRemainder, frozenReservation, Function.comp_def]
  have live : ∀ c ∈ (floorClaims rows stage basis).1, c.row.live = true := by
    intro c hc
    have row : c.row ∈ floorOrder rows := giveFloors_rows (floorOrder rows) _ ▸ List.mem_map_of_mem hc
    exact (List.mem_filter.1 ((floorOrder_perm rows).subset row)).2
  simp only [allClaims, start, floorOrder_bare, giveFloors_bare]
  exact shareClasses_bare live _ _

/-- A recompute gives a row and the row stripped of what the rule does not read the same output. -/
theorem ruleOutput_recomputeRow_bare {rows : List Row} {r : Row} (hr : r ∈ rows) (stage : Nat) :
    ruleOutput (recomputeRow (rows.map Row.bare) stage r.bare) = ruleOutput (recomputeRow rows stage r) := by
  cases live : r.live with
  | false =>
    rw [recomputeRow_of_not_live live, recomputeRow_of_not_live ((Row.bare_live r).trans live)]
    obtain ⟨_, status⟩ := r
    cases status with
    | joining | active => cases live
    | silent | disputed => rfl
  | true =>
    obtain ⟨basis, hbasis⟩ := capacityBasis_isSome hr live
    have found : ((allClaims rows stage basis).map Claim.bare).find? (fun c => c.row.station == r.bare.station) =
        ((allClaims rows stage basis).find? fun c => c.row.station == r.station).map Claim.bare := by
      simp [List.find?_map, Claim.bare]
    have bareLive := (Row.bare_live r).trans live
    simp only [recomputeRow, capacityBasis_bare, hbasis, allClaims_bare, writeClaim, found]
    cases claim : (allClaims rows stage basis).find? fun c => c.row.station == r.station with
    | some c =>
      simp only [Option.map_some, ruleOutput, Row.setGrant_station, Row.bare_station, Row.setGrant_grant live, Row.setGrant_grant bareLive,
        Row.setGrant_starved live, Row.setGrant_starved bareLive]
      rfl
    | none =>
      obtain ⟨d, hd, row⟩ := List.mem_map.1 ((allClaims_rows_perm rows stage basis).symm.subset (List.mem_filter.2 ⟨hr, live⟩))
      exact absurd (congrArg Row.station row) (by simpa using List.find?_eq_none.1 claim d hd)

/-- Settles O24: stripping a table of what R24 does not list changes no output, and tables of equal input are stripped to the same one. -/
theorem grantsFollowInputsAlone : Obligations.GrantsFollowInputsAlone := by
  intro rows rows' stage _ _ inputs
  have stripped (rows : List Row) :
      (recomputeRows rows stage).map ruleOutput = (recomputeRows (rows.map Row.bare) stage).map ruleOutput := by
    simp only [recomputeRows_eq_map, List.map_map]
    exact List.map_congr_left fun r hr => (ruleOutput_recomputeRow_bare hr stage).symm
  have same : rows.map Row.bare = rows'.map Row.bare := by
    have := congrArg (List.map rowOfInput) inputs
    rwa [List.map_map, List.map_map] at this
  rw [stripped rows, stripped rows', same]

/-! ### One class after the other (R31) -/

/-- Nothing is handed out where nothing is left. -/
theorem Handed.excess_eq_zero {cs ds : List Claim} {rest : Nat} (h : Handed cs 0 ds rest) (fresh : ∀ c ∈ cs, c.excess = 0) :
    ∀ d ∈ ds, d.excess = 0 := by
  have start : excessTotal cs = 0 := List.sum_eq_zero (List.forall_mem_map.2 fresh)
  have total := h.total
  have none_given : excessTotal ds = 0 := by omega
  exact fun d hd => List.sum_eq_zero_iff.1 none_given _ (List.mem_map_of_mem hd)

/-- Handing out excess changes no claim's row. -/
theorem Handed.exists_row {cs ds : List Claim} {left rest : Nat} (h : Handed cs left ds rest) {d : Claim} (hd : d ∈ ds) :
    ∃ c ∈ cs, c.row = d.row := by
  have : d.settled ∈ cs.map Claim.settled := h.settled ▸ List.mem_map_of_mem hd
  obtain ⟨c, hc, same⟩ := List.mem_map.1 this
  exact ⟨c, hc, congrArg Prod.fst same⟩

theorem mem_byClass {ks : List Nat} {cs : List Claim} {c : Claim} : c ∈ byClass ks cs ↔ c.row.classNo ∈ ks ∧ c ∈ cs := by
  simp only [byClass, List.mem_flatMap, List.mem_filter, beq_iff_eq]
  constructor
  · rintro ⟨k, hk, hc, rfl⟩; exact ⟨hk, hc⟩
  · rintro ⟨hk, hc⟩; exact ⟨_, hk, hc, rfl⟩

/-- While a claim of one class is unsatisfied, no claim of a lower class has excess. -/
theorem shareClasses_precedence {ks : List Nat} (sorted : ks.Pairwise (· < ·)) {cs : List Claim} (fresh : ∀ c ∈ cs, c.excess = 0) (left : Nat) :
    ∀ c ∈ shareClasses ks cs left, ∀ d ∈ shareClasses ks cs left,
      c.row.classNo < d.row.classNo → c.unsatisfied = true → d.excess = 0 := by
  induction ks generalizing left with
  | nil => intro c hc; cases hc
  | cons k ks ih =>
    obtain ⟨first, sorted⟩ := List.pairwise_cons.1 sorted
    let mine := cs.filter fun c => c.row.classNo == k
    have here := classRounds_handed (mine.length + 1) mine left
    have done := classRounds_exhausts (mine.length + 1) mine left (Nat.lt_succ_of_le List.countP_le_length)
    obtain ⟨rest, there, -⟩ := shareClasses_handed ks cs (classRounds (mine.length + 1) mine left).2
    have class_here {c : Claim} (hc : c ∈ (classRounds (mine.length + 1) mine left).1) : c.row.classNo = k := by
      obtain ⟨m, hm, row⟩ := here.exists_row hc
      exact row ▸ beq_iff_eq.1 (List.mem_filter.1 hm).2
    have class_there {c : Claim} (hc : c ∈ shareClasses ks cs (classRounds (mine.length + 1) mine left).2) : k < c.row.classNo := by
      obtain ⟨m, hm, row⟩ := there.exists_row hc
      exact first _ (row ▸ (mem_byClass.1 hm).1)
    intro c hc d hd lower unsatisfied
    rcases List.mem_append.1 hc with hc | hc
    · rcases List.mem_append.1 hd with hd | hd
      · rw [class_here hc, class_here hd] at lower
        exact absurd lower (lt_irrefl k)
      · rcases done with none_left | satisfied
        · rw [none_left] at there hd
          exact there.excess_eq_zero (fun c hc => fresh c (mem_byClass.1 hc).2) d hd
        · exact absurd (satisfied c hc) (by simp [unsatisfied])
    · rcases List.mem_append.1 hd with hd | hd
      · rw [class_here hd] at lower
        exact absurd (class_there hc) lower.asymm
      · exact ih sorted _ c hc d hd lower unsatisfied

/-- Settles O26: a claim of a lower class has no excess while one of a higher class is unsatisfied. -/
theorem higherClassesFirst : Obligations.HigherClassesFirst := by
  intro rows stage ⟨ordered, _⟩ after a ha b hb active starved live lower above
  cases hbasis : capacityBasis rows with
  | none =>
    have : a ∈ rows := by simpa [after, recomputeRows, hbasis] using ha
    obtain ⟨basis, some_basis⟩ := capacityBasis_isSome this (Row.live_of_isActive active)
    rw [hbasis] at some_basis
    cases some_basis
  | some basis =>
    obtain ⟨c, hc, rfl⟩ := exists_claim_of_live ordered hbasis ha (Row.live_of_isActive active)
    obtain ⟨d, hd, rfl⟩ := exists_claim_of_live ordered hbasis hb live
    rw [Claim.written_starved hc] at starved
    rw [Claim.written_grant hd] at above
    rw [Claim.written_grant hc]
    simp only [Claim.written, Row.setGrant_isActive, Row.setGrant_classNo, Row.setGrant_demand] at active lower ⊢
    refine Claim.grant_of_satisfied hc active starved (Bool.eq_false_iff.2 fun unsatisfied => ?_)
    have none_given : d.excess = 0 := shareClasses_precedence List.pairwise_lt_range
      (fun f hf => (giveFloors_fresh _ _ f hf).1) _ c hc d hd lower unsatisfied
    cases d_starved : d.starved with
    | true => rw [Claim.grant_of_starved hd d_starved] at above; cases above
    | false =>
      rw [Claim.grant_of_not_starved hd d_starved, none_given] at above
      exact absurd above (lt_irrefl _)

/-! ### Even shares within a class (R32, R33) -/

/-- An unsatisfied claim is behind no other. -/
def Level (cs : List Claim) : Prop := ∀ c ∈ cs, ∀ d ∈ cs, c.unsatisfied = true → d.excess ≤ c.excess

/-- The claim c stands before d in station order: unsatisfied, it is not behind d, and ahead of d unsatisfied by no more than the odd unit. -/
def Claim.EvenWith (c d : Claim) : Prop :=
  (c.unsatisfied = true → d.excess ≤ c.excess) ∧ (d.unsatisfied = true → c.excess ≤ d.excess + 1)

theorem Level.evenWith {cs : List Claim} (h : Level cs) {c d : Claim} (hc : c ∈ cs) (hd : d ∈ cs) : c.EvenWith d :=
  ⟨h c hc d hd, fun unsatisfied => (h d hd c hc unsatisfied).trans (Nat.le_succ _)⟩

theorem Level.pairwise {cs : List Claim} (h : Level cs) : cs.Pairwise Claim.EvenWith :=
  List.pairwise_of_forall_mem_list fun _ hc _ hd => h.evenWith hc hd

/-- An even round leaves the unsatisfied claims level: each of them has received the whole share. -/
theorem level_evenShare {cs : List Claim} (h : Level cs) (s : Nat) : Level (cs.map (evenShare s)) := by
  intro c' hc' d' hd' unsatisfied
  obtain ⟨c, hc, rfl⟩ := List.mem_map.1 hc'
  obtain ⟨d, hd, rfl⟩ := List.mem_map.1 hd'
  have given := le_evenShare_excess s c
  have taken := evenShare_excess_le s d
  have before := h c hc d hd (unsatisfied_of_evenShare unsatisfied)
  rw [unsatisfied, if_pos rfl] at given
  split_ifs at taken <;> omega

/-- An odd unit raises a claim by one at most. -/
theorem oddUnits_raises (cs : List Claim) (left : Nat) :
    ∀ d' ∈ oddUnits cs left, ∃ d ∈ cs, d.excess ≤ d'.excess ∧ d'.excess ≤ d.excess + 1 ∧ (d'.unsatisfied = true → d.unsatisfied = true) ∧
      (left = 0 → d' = d) := by
  fun_induction oddUnits cs left with
  | case1 => simp
  | case2 c cs left given ih =>
    obtain ⟨unsatisfied, pos⟩ := by simpa using given
    refine List.forall_mem_cons.2 ⟨⟨c, List.mem_cons_self, by simp, by simp, fun _ => unsatisfied, fun none_left => ?_⟩, fun d' hd' => ?_⟩
    · omega
    · obtain ⟨d, hd, low, high, unsat, -⟩ := ih d' hd'
      exact ⟨d, List.mem_cons_of_mem _ hd, low, high, unsat, fun none_left => by omega⟩
  | case3 c cs left passed ih =>
    refine List.forall_mem_cons.2 ⟨⟨c, List.mem_cons_self, le_rfl, Nat.le_succ _, id, fun _ => rfl⟩, fun d' hd' => ?_⟩
    obtain ⟨d, hd, rest⟩ := ih d' hd'
    exact ⟨d, List.mem_cons_of_mem _ hd, rest⟩

/-- The odd units go to the first of level claims. -/
theorem evenWith_oddUnits {cs : List Claim} (h : Level cs) (left : Nat) : (oddUnits cs left).Pairwise Claim.EvenWith := by
  fun_induction oddUnits cs left with
  | case1 => exact .nil
  | case2 c cs left given ih =>
    obtain ⟨unsatisfied, pos⟩ := by simpa using given
    refine .cons (fun d' hd' => ?_) (ih fun a ha b hb => h a (List.mem_cons_of_mem _ ha) b (List.mem_cons_of_mem _ hb))
    obtain ⟨d, hd, low, high, unsat, -⟩ := oddUnits_raises cs (left - 1) d' hd'
    have hd := List.mem_cons_of_mem c hd
    refine ⟨fun _ => high.trans (Nat.succ_le_succ (h c List.mem_cons_self d hd unsatisfied)), fun d_unsat => ?_⟩
    exact Nat.succ_le_succ ((h d hd c List.mem_cons_self (unsat d_unsat)).trans low)
  | case3 c cs left passed ih =>
    refine .cons (fun d' hd' => ?_) (ih fun a ha b hb => h a (List.mem_cons_of_mem _ ha) b (List.mem_cons_of_mem _ hb))
    obtain ⟨d, hd, low, high, unsat, none_left⟩ := oddUnits_raises cs left d' hd'
    have hd := List.mem_cons_of_mem c hd
    refine ⟨fun c_unsat => ?_, fun d_unsat => ?_⟩
    · have : left = 0 := by simpa [c_unsat] using passed
      rw [none_left this]
      exact h c List.mem_cons_self d hd c_unsat
    · exact ((h d hd c List.mem_cons_self (unsat d_unsat)).trans low).trans (Nat.le_succ _)

theorem evenWith_classRounds {cs : List Claim} (h : Level cs) (fuel left : Nat) : (classRounds fuel cs left).1.Pairwise Claim.EvenWith := by
  fun_induction classRounds fuel cs left with
  | case1 | case2 => exact h.pairwise
  | case3 fuel cs left n hn s hs => exact evenWith_oddUnits h left
  | case4 fuel cs left n hn s hs cs' ih => exact ih (level_evenShare h s)

/-- Within each class the shares are even, in the order in which the class was visited. -/
theorem evenWith_shareClasses {ks : List Nat} (sorted : ks.Pairwise (· < ·)) {cs : List Claim} (fresh : ∀ c ∈ cs, c.excess = 0) (left : Nat) :
    (shareClasses ks cs left).Pairwise fun c d => c.row.classNo = d.row.classNo → c.EvenWith d := by
  induction ks generalizing left with
  | nil => exact .nil
  | cons k ks ih =>
    obtain ⟨first, sorted⟩ := List.pairwise_cons.1 sorted
    let mine := cs.filter fun c => c.row.classNo == k
    have here := classRounds_handed (mine.length + 1) mine left
    obtain ⟨rest, there, -⟩ := shareClasses_handed ks cs (classRounds (mine.length + 1) mine left).2
    have level : Level mine := fun c hc d hd _ => by
      rw [fresh c (List.mem_of_mem_filter hc), fresh d (List.mem_of_mem_filter hd)]
    have even_here := (evenWith_classRounds level (mine.length + 1) left).imp
      (S := fun c d : Claim => c.row.classNo = d.row.classNo → c.EvenWith d) fun even _ => even
    refine List.pairwise_append.2 ⟨even_here, ih sorted _, fun c hc d hd same => ?_⟩
    obtain ⟨m, hm, row⟩ := here.exists_row hc
    obtain ⟨m', hm', row'⟩ := there.exists_row hd
    have class_here : c.row.classNo = k := row ▸ beq_iff_eq.1 (List.mem_filter.1 hm).2
    have class_there := first _ (row' ▸ (mem_byClass.1 hm').1)
    omega

theorem shareClasses_order {rows : List Row} (ordered : rows.Pairwise fun a b => a.station < b.station) (stage basis : Nat) :
    (allClaims rows stage basis).Pairwise fun c d => c.row.Before d.row := by
  have floors : (floorClaims rows stage basis).1.Pairwise fun f g => f.row.Before g.row :=
    List.pairwise_map.1 ((giveFloors_rows _ _).symm ▸ floorOrder_pairwise ordered)
  have classes : (byClass (List.range 4) (floorClaims rows stage basis).1).Pairwise fun f g => f.row.Before g.row := by
    refine List.pairwise_flatMap.2 ⟨fun k _ => floors.filter _, List.pairwise_lt_range.imp fun {k l} lower f hf g hg => .inl ?_⟩
    simp only [List.mem_filter, beq_iff_eq] at hf hg
    omega
  obtain ⟨_, handed, -⟩ := allClaims_handed rows stage basis
  have same : (allClaims rows stage basis).map Claim.row = (byClass (List.range 4) (floorClaims rows stage basis).1).map Claim.row := by
    simpa [Function.comp_def, Claim.settled] using congrArg (List.map Prod.fst) handed.settled
  exact List.pairwise_map.1 (same ▸ List.pairwise_map.2 classes)

/-- Settles O27: in floor order the claims of one class are even with each other, and not starved they come to the floor and their excess. -/
theorem evenWithinClass : Obligations.EvenWithinClass := by
  intro rows stage ⟨ordered, _⟩ after a ha b hb a_active b_active a_starved b_starved same_class
  cases hbasis : capacityBasis rows with
  | none =>
    have : a ∈ rows := by simpa [after, recomputeRows, hbasis] using ha
    obtain ⟨basis, some_basis⟩ := capacityBasis_isSome this (Row.live_of_isActive a_active)
    rw [hbasis] at some_basis
    cases some_basis
  | some basis =>
    obtain ⟨c, hc, rfl⟩ := exists_claim_of_live ordered hbasis ha (Row.live_of_isActive a_active)
    obtain ⟨d, hd, rfl⟩ := exists_claim_of_live ordered hbasis hb (Row.live_of_isActive b_active)
    rw [Claim.written_starved hc] at a_starved
    rw [Claim.written_starved hd] at b_starved
    rw [Claim.written_grant hc, Claim.written_grant hd]
    simp only [Claim.written, Row.setGrant_isActive, Row.setGrant_classNo, Row.setGrant_station, Row.setGrant_demand] at *
    have even (c) (hc : c ∈ allClaims rows stage basis) (d) (hd : d ∈ allClaims rows stage basis) (before : c.row.Before d.row) :=
      forall_of_pairwise_before (shareClasses_order ordered stage basis)
        (evenWith_shareClasses List.pairwise_lt_range (fun f hf => (giveFloors_fresh _ _ f hf).1) _) c hc d hd before
    have satisfied := Claim.grant_of_satisfied hc a_active a_starved
    rw [Claim.grant_of_not_starved hc a_starved, Claim.grant_of_not_starved hd b_starved] at *
    refine ⟨fun behind => satisfied (Bool.eq_false_iff.2 fun unsatisfied => ?_),
      fun before behind => satisfied (Bool.eq_false_iff.2 fun unsatisfied => ?_)⟩
    · rcases Nat.lt_trichotomy c.row.station d.row.station with before | equal | after
      · have := (even c hc d hd (.inr ⟨same_class, before⟩) same_class).1 unsatisfied
        omega
      · have : c = d := List.inj_on_of_nodup_map (allClaims_stations_nodup ordered) hc hd equal
        rw [this] at behind
        omega
      · have := (even d hd c hc (.inr ⟨same_class.symm, after⟩) same_class.symm).2 unsatisfied
        omega
    · have := (even c hc d hd (.inr ⟨same_class, before⟩) same_class).1 unsatisfied
      omega

end Sys2Proof.Machine
end

section
/-! PROOFS. The share table's form: what placing, aging and recomputing rows keeps of it, and the obligations on the rows that frames make
and on the table. -/

namespace Sys2Proof.Machine

set_option Elab.async false

/-! ### A row within its ranges (R1, R2) -/

theorem Row.wf_iff (r : Row) :
    r.wf = true ↔ (1 ≤ r.station ∧ r.station ≤ 16 ∧ r.demand ≤ 160 ∧ r.grant ≤ 160 ∧ r.frozen ≤ 160 ∧ r.age ≤ ms releaseMs) ∧
      (∀ f d, r.status = .disputed f d → d ≤ ms releaseMs) ∧ ∀ g m, r.status = .joining g m → r.demand = 0 := by
  unfold Row.wf
  cases status : r.status <;> simp

theorem ageRow_station (r : Row) : (ageRow r).station = r.station := by
  obtain ⟨_, status⟩ := r; cases status <;> rfl

theorem ageRow_wf {r : Row} (h : r.wf = true) : (ageRow r).wf = true := by
  rw [Row.wf_iff] at *
  obtain ⟨⟨low, high, demand, grant, frozen, -⟩, -, joining⟩ := h
  obtain ⟨station, status, tag, sb, sc, need, age⟩ := r
  have capped : min (age + 1) (ms releaseMs) ≤ ms releaseMs := min_le_right _ _
  cases status with
  | disputed f d => exact ⟨⟨low, high, demand, grant, frozen, capped⟩, fun _ _ same => by cases same; exact min_le_right _ _, nofun⟩
  | joining g m => exact ⟨⟨low, high, demand, grant, frozen, capped⟩, nofun, fun _ _ _ => joining g m rfl⟩
  | active | silent => exact ⟨⟨low, high, demand, grant, frozen, capped⟩, nofun, nofun⟩

theorem Row.setGrant_wf {r : Row} (h : r.wf = true) {g : Nat} (small : g ≤ 160) (m : Bool) : (r.setGrant g m).wf = true := by
  rw [Row.wf_iff] at *
  obtain ⟨⟨low, high, demand, grant, frozen, age⟩, disputed, joining⟩ := h
  obtain ⟨station, status⟩ := r
  cases status with
  | joining g' m' => exact ⟨⟨low, high, demand, small, frozen, age⟩, nofun, fun _ _ _ => joining g' m' rfl⟩
  | active => exact ⟨⟨low, high, demand, small, frozen, age⟩, nofun, nofun⟩
  | silent | disputed => exact ⟨⟨low, high, demand, grant, frozen, age⟩, disputed, joining⟩

theorem Row.demand_le {r : Row} (h : r.wf = true) : r.demand ≤ 160 := by
  obtain ⟨⟨-, -, demand, -⟩, -⟩ := (Row.wf_iff r).1 h
  exact demand

/-! ### The table as a list (R1) -/

theorem findRow_some {n : Nat} {rows : List Row} {r : Row} (h : findRow n rows = some r) : r ∈ rows ∧ r.station = n :=
  ⟨List.mem_of_find?_eq_some h, by simpa using List.find?_some h⟩

theorem mem_putRow {n : Nat} {new : Option Row} {rows : List Row} {r : Row} (h : r ∈ putRow n new rows) : new = some r ∨ r ∈ rows := by
  induction rows with
  | nil => simpa [putRow] using h
  | cons a rows ih =>
    unfold putRow at h
    split_ifs at h with below equal
    · rcases List.mem_cons.1 h with rfl | h
      · exact .inr List.mem_cons_self
      · exact (ih h).imp_right (List.mem_cons_of_mem _)
    · rcases List.mem_append.1 h with h | h
      · exact .inl (by simpa using h)
      · exact .inr (List.mem_cons_of_mem _ h)
    · rcases List.mem_append.1 h with h | h
      · exact .inl (by simpa using h)
      · exact .inr h

theorem putRow_ordered {n : Nat} {new : Option Row} {rows : List Row} (ordered : rows.Pairwise fun a b => a.station < b.station)
    (station : ∀ r, new = some r → r.station = n) : (putRow n new rows).Pairwise fun a b => a.station < b.station := by
  have before {rest : List Row} (h : ∀ b ∈ rest, n < b.station) (hrest : rest.Pairwise fun a b => a.station < b.station) :
      (new.toList ++ rest).Pairwise fun a b => a.station < b.station := by
    cases new with
    | none => simpa using hrest
    | some r => exact List.pairwise_cons.2 ⟨fun b hb => station r rfl ▸ h b hb, hrest⟩
  induction rows with
  | nil =>
    have alone := before (rest := []) nofun .nil
    rwa [List.append_nil] at alone
  | cons a rows ih =>
    obtain ⟨first, rest⟩ := List.pairwise_cons.1 ordered
    unfold putRow
    split_ifs with below equal
    · refine List.pairwise_cons.2 ⟨fun b hb => ?_, ih rest⟩
      rcases mem_putRow hb with new_b | old
      · rw [station b new_b]; exact below
      · exact first b old
    · exact before (fun b hb => equal ▸ first b hb) rest
    · have above : n < a.station := by omega
      exact before (List.forall_mem_cons.2 ⟨above, fun b hb => above.trans (first b hb)⟩) ordered

/-- A row that may stand at station n: of that number and within its ranges, or none. -/
def RowFits (n : Nat) (new : Option Row) : Prop := ∀ r, new = some r → r.station = n ∧ r.wf = true

theorem putRow_tableWf {n : Nat} {new : Option Row} {rows : List Row} (h : tableWf rows) (fits : RowFits n new) :
    tableWf (putRow n new rows) := by
  obtain ⟨ordered, wf⟩ := h
  refine ⟨putRow_ordered ordered fun r new => (fits r new).1, fun r hr => ?_⟩
  rcases mem_putRow hr with new | old
  · exact (fits r new).2
  · exact wf r old

theorem findRow_fits {rows : List Row} (h : tableWf rows) (n : Nat) : RowFits n (findRow n rows) := by
  intro r found
  obtain ⟨mem, station⟩ := findRow_some found
  exact ⟨station, h.2 r mem⟩

theorem tableWf_map {rows : List Row} (h : tableWf rows) {f : Row → Row} (station : ∀ r, (f r).station = r.station)
    (wf : ∀ r ∈ rows, (f r).wf = true) : tableWf (rows.map f) := by
  obtain ⟨ordered, -⟩ := h
  refine ⟨List.pairwise_map.2 (ordered.imp fun {a b} lt => ?_), List.forall_mem_map.2 wf⟩
  rw [station a, station b]
  exact lt

theorem ageRow_tableWf {rows : List Row} (h : tableWf rows) : tableWf (rows.map ageRow) :=
  tableWf_map h ageRow_station fun r hr => ageRow_wf (h.2 r hr)

theorem recomputeRows_tableWf {rows : List Row} (h : tableWf rows) (stage : Nat) : tableWf (recomputeRows rows stage) := by
  rw [recomputeRows_eq_map]
  refine tableWf_map h (recomputeRow_station rows stage) fun r hr => ?_
  have wf := h.2 r hr
  cases live : r.live with
  | false => rw [recomputeRow_of_not_live live]; exact wf
  | true =>
    obtain ⟨basis, c, -, hc, rfl, written⟩ := recomputeRow_written h.1 hr live stage
    have grant_le := Claim.grant_le hc
    have demand_le := Row.demand_le wf
    rw [written]
    exact Row.setGrant_wf wf (by omega) _

/-! ### The rows that frames and ages make (R5 to R14) -/

section RowFitsOf

variable {n : Nat} {old : Option Row} (h : RowFits n old)

theorem newRow_wf {n : Nat} {status : RowStatus} {demand : Nat} (station : 1 ≤ n ∧ n ≤ 16) (small : demand ≤ 160)
    (fresh : status = .active 0 false ∨ status = .joining 0 false ∧ demand = 0) (tag : Tag) (sb sc : Code) :
    (newRow n status tag sb sc demand).wf = true := by
  rw [Row.wf_iff]
  obtain ⟨low, high⟩ := station
  rcases fresh with rfl | ⟨rfl, none_asked⟩
  · exact ⟨⟨low, high, small, Nat.zero_le _, Nat.zero_le _, Nat.zero_le _⟩, nofun, nofun⟩
  · exact ⟨⟨low, high, small, Nat.zero_le _, Nat.zero_le _, Nat.zero_le _⟩, nofun, fun _ _ _ => none_asked⟩

theorem dispute_wf {r : Row} (h : r.wf = true) : r.dispute.wf = true := by
  rw [Row.wf_iff] at *
  obtain ⟨⟨low, high, demand, grant, frozen, age⟩, -⟩ := h
  obtain ⟨station, status⟩ := r
  cases status with
  | joining | active =>
    exact ⟨⟨low, high, demand, Nat.zero_le _, grant, Nat.zero_le _⟩, fun _ _ same => by cases same; exact Nat.zero_le _, nofun⟩
  | silent | disputed =>
    exact ⟨⟨low, high, demand, Nat.zero_le _, frozen, Nat.zero_le _⟩, fun _ _ same => by cases same; exact Nat.zero_le _, nofun⟩

theorem dispute_station (r : Row) : r.dispute.station = r.station := by
  obtain ⟨_, status⟩ := r; cases status <;> rfl

theorem dispute_of_disputed {r : Row} {f d : Nat} (h : r.status = .disputed f d) : r.dispute = r.stillDisputed f := by
  simp only [Row.dispute, h, Row.stillDisputed]

include h

theorem dispute_fits {r : Row} (row : old = some r) : RowFits n (some r.dispute) := by
  intro r' same
  cases same
  exact ⟨(dispute_station r).trans (h r row).1, dispute_wf (h r row).2⟩

theorem joinRow_fits (station : 1 ≤ n ∧ n ≤ 16) (b : JoinBody) : RowFits n (joinRow n b old) := by
  unfold joinRow
  split
  next =>
    intro r' same
    cases same
    exact ⟨rfl, newRow_wf station (Nat.zero_le _) (.inr ⟨rfl, rfl⟩) _ _ _⟩
  next r =>
    have restarted : RowFits n (some { r with
        status := .joining r.grant r.starved, tag := b.tag, sb := b.sb, sc := b.sc, demand := 0, age := 0 }) := by
      intro r' same
      cases same
      obtain ⟨number, wf⟩ := h r rfl
      rw [Row.wf_iff] at *
      obtain ⟨⟨low, high, -, grant, -⟩, -⟩ := wf
      exact ⟨number, ⟨low, high, Nat.zero_le _, grant, Nat.zero_le _, Nat.zero_le _⟩, nofun, fun _ _ _ => rfl⟩
    split
    next status => exact dispute_of_disputed status ▸ dispute_fits h rfl
    all_goals exact restarted

theorem demandRow_fits (station : 1 ≤ n ∧ n ≤ 16) {b : DemandBody} (small : b.demand.toNat ≤ 160) : RowFits n (demandRow n b old) := by
  unfold demandRow
  split
  next =>
    split <;> intro r' same <;> cases same
    · exact ⟨rfl, newRow_wf station (Nat.zero_le _) (.inr ⟨rfl, rfl⟩) _ _ _⟩
    · exact ⟨rfl, newRow_wf station small (.inl rfl) _ _ _⟩
  next r =>
    have announced : RowFits n (match b.mode with
        | .census => some { r with status := .joining r.grant r.starved, sb := b.sb, sc := b.sc, demand := 0, age := 0 }
        | .active => some { r with status := .active r.grant r.starved, sb := b.sb, sc := b.sc, demand := b.demand.toNat, age := 0 }) := by
      obtain ⟨number, wf⟩ := h r rfl
      rw [Row.wf_iff] at wf
      obtain ⟨⟨low, high, -, grant, -⟩, -⟩ := wf
      split <;> intro r' same <;> cases same <;> rw [Row.wf_iff]
      · exact ⟨number, ⟨low, high, Nat.zero_le _, grant, Nat.zero_le _, Nat.zero_le _⟩, nofun, fun _ _ _ => rfl⟩
      · exact ⟨number, ⟨low, high, small, grant, Nat.zero_le _, Nat.zero_le _⟩, nofun, nofun⟩
    split
    next status => exact dispute_of_disputed status ▸ dispute_fits h rfl
    all_goals
      split_ifs
      · exact announced
      · exact dispute_fits h rfl

theorem leaveRow_fits (b : LeaveBody) : RowFits n (leaveRow b old) := by
  unfold leaveRow
  split
  next => nofun
  next r =>
    split
    next status => exact dispute_of_disputed status ▸ dispute_fits h rfl
    all_goals
      split_ifs
      · nofun
      · exact dispute_fits h rfl

theorem silenceRow_fits {r : Row} (row : old = some r) : RowFits n (some (silenceRow r)) := by
  intro r' same
  cases same
  obtain ⟨number, wf⟩ := h r row
  rw [Row.wf_iff] at *
  obtain ⟨⟨low, high, demand, grant, frozen, age⟩, disputed, joining⟩ := wf
  obtain ⟨station, status⟩ := r
  cases status with
  | joining | active => exact ⟨number, ⟨low, high, demand, Nat.zero_le _, grant, age⟩, nofun, nofun⟩
  | silent | disputed => exact ⟨number, ⟨low, high, demand, grant, frozen, age⟩, disputed, joining⟩

end RowFitsOf

/-! ### Finding a row again (R1) -/

theorem findRow_append (m : Nat) (rows rest : List Row) : findRow m (rows ++ rest) = (findRow m rows).or (findRow m rest) :=
  List.find?_append

theorem findRow_eq_none {m : Nat} {rows : List Row} (h : ∀ r ∈ rows, r.station ≠ m) : findRow m rows = none := by
  simpa [findRow] using h

theorem findRow_cons (m : Nat) (a : Row) (rows : List Row) :
    findRow m (a :: rows) = if a.station = m then some a else findRow m rows := by
  by_cases here : a.station = m <;> simp [findRow, here]

theorem findRow_toList {m n : Nat} {new : Option Row} (station : ∀ r, new = some r → r.station = n) :
    findRow m new.toList = if m = n then new else none := by
  cases new with
  | none => simp [findRow]
  | some r =>
    have number := station r rfl
    rw [Option.toList_some, findRow_cons, number]
    simp only [eq_comm (a := n)]
    rfl

/-- The row put at station n is found there, and every other row as before. -/
theorem findRow_putRow {n : Nat} {new : Option Row} {rows : List Row} (ordered : rows.Pairwise fun a b => a.station < b.station)
    (station : ∀ r, new = some r → r.station = n) (m : Nat) :
    findRow m (putRow n new rows) = if m = n then new else findRow m rows := by
  induction rows with
  | nil => exact findRow_toList station
  | cons a rows ih =>
    obtain ⟨first, rest⟩ := List.pairwise_cons.1 ordered
    have absent (low : n ≤ a.station) : findRow n rows = none :=
      findRow_eq_none fun r hr => by have := first r hr; omega
    have or_none (o : Option Row) : o.or none = o := by cases o <;> rfl
    unfold putRow
    by_cases below : a.station < n
    · rw [if_pos below, findRow_cons, findRow_cons, ih rest]
      by_cases there : m = n
      · rw [if_pos there, if_pos there, if_neg (by omega)]
      · rw [if_neg there, if_neg there]
    · rw [if_neg below]
      by_cases equal : a.station = n
      · rw [if_pos equal, findRow_append, findRow_toList station, findRow_cons, equal]
        by_cases there : m = n
        · rw [if_pos there, if_pos there, there, absent equal.ge, or_none]
        · rw [if_neg there, if_neg there, if_neg (Ne.symm there), Option.none_or]
      · rw [if_neg equal, findRow_append, findRow_toList station, findRow_cons]
        by_cases there : m = n
        · rw [if_pos there, if_pos there, there, if_neg equal, absent (Nat.le_of_not_lt below), or_none]
        · rw [if_neg there, if_neg there, Option.none_or]

/-! ### The rules of the rows (R5 to R11, R16) -/

/-- The row that a frame makes of a live or SILENT row whose tag it does not bear, and of a DISPUTED one (R10). -/
theorem dispute_eq (r : Row) :
    r.dispute = { r with status := .disputed (if r.live = true then r.grant else r.frozen) 0, age := 0 } := by
  obtain ⟨_, status⟩ := r; cases status <;> rfl

theorem Row.name_eq_disputed_iff (r : Row) : r.name = .disputed ↔ ∃ f d, r.status = .disputed f d := by
  unfold Row.name
  cases r.status <;> simp

theorem joinRow_some_of_disputed {r : Row} (h : r.name = .disputed) (n : Nat) (b : JoinBody) : joinRow n b (some r) = some r.dispute := by
  obtain ⟨f, d, status⟩ := r.name_eq_disputed_iff.1 h
  simp only [joinRow, status, dispute_of_disputed status]

theorem demandRow_some_of_disputed {r : Row} (h : r.name = .disputed) (n : Nat) (b : DemandBody) :
    demandRow n b (some r) = some r.dispute := by
  obtain ⟨f, d, status⟩ := r.name_eq_disputed_iff.1 h
  simp only [demandRow, status, dispute_of_disputed status]

theorem leaveRow_some_of_disputed {r : Row} (h : r.name = .disputed) (b : LeaveBody) : leaveRow b (some r) = some r.dispute := by
  obtain ⟨f, d, status⟩ := r.name_eq_disputed_iff.1 h
  simp only [leaveRow, status, dispute_of_disputed status]

/-- A row that is not DISPUTED is created afresh by a JOIN (R6). -/
theorem joinRow_some {r : Row} (h : r.name ≠ .disputed) (n : Nat) (b : JoinBody) :
    joinRow n b (some r) =
      some { r with status := .joining r.grant r.starved, tag := b.tag, sb := b.sb, sc := b.sc, demand := 0, age := 0 } := by
  unfold joinRow Row.name at *
  cases status : r.status <;> simp_all

/-- The row that an accepted DEMAND under the row's tag leaves (R7, R8). -/
def Row.announced (r : Row) (b : DemandBody) : Row :=
  match b.mode with
  | .census => { r with status := .joining r.grant r.starved, sb := b.sb, sc := b.sc, demand := 0, age := 0 }
  | .active => { r with status := .active r.grant r.starved, sb := b.sb, sc := b.sc, demand := b.demand.toNat, age := 0 }

theorem demandRow_some {r : Row} (h : r.name ≠ .disputed) (n : Nat) (b : DemandBody) :
    demandRow n b (some r) = some (if r.tag = b.tag then r.announced b else r.dispute) := by
  unfold demandRow Row.name Row.announced at *
  cases status : r.status <;> cases mode : b.mode <;> simp_all <;> split_ifs <;> rfl

theorem leaveRow_some {r : Row} (h : r.name ≠ .disputed) (b : LeaveBody) :
    leaveRow b (some r) = if r.tag = b.tag then none else some r.dispute := by
  unfold leaveRow Row.name at *
  cases status : r.status <;> simp_all

theorem handedOn_iff (old new : Option Row) : handedOn old new = true ↔
    (old = none ∧ new ≠ none) ∨ (old ≠ none ∧ new = none) ∨
    ∃ a b, old = some a ∧ new = some b ∧
      (a.name ≠ b.name ∨ a.demand ≠ b.demand ∨ a.sb.toNat / 8 ≠ b.sb.toNat / 8 ∨ a.sc.toNat % 16 ≠ b.sc.toNat % 16) := by
  cases old <;> cases new <;> simp [handedOn, Row.classNo, classOf, capacityCodeOf, or_assoc]

/-- Settles O28: what each of the three frames makes of a row by its state and tag, and where the row is found again. -/
theorem frameRowRules : Obligations.FrameRowRules := by
  refine ⟨fun _ _ => rfl, fun n d => ?_, fun _ => rfl, fun n j r h => ?_, fun n d r h tag => ?_, fun l r h tag => ?_,
    fun n j d l r => ?_, handedOn_iff, fun n m new rows ⟨ordered, _⟩ station => ?_⟩
  · cases mode : d.mode <;> simp [demandRow, mode]
  · exact ⟨_, joinRow_some h n j, rfl, rfl, rfl, rfl, rfl, rfl, rfl, rfl, rfl⟩
  · refine ⟨r.announced d, by rw [demandRow_some h, if_pos tag], ?_⟩
    unfold Row.announced
    cases d.mode <;> exact ⟨rfl, rfl, rfl, rfl, rfl, rfl, rfl, rfl, rfl⟩
  · rw [leaveRow_some h, if_pos tag]
  · dsimp only
    rw [← dispute_eq]
    refine ⟨fun h other => ?_, fun h other => ?_, fun h => ?_⟩
    · rw [demandRow_some h, if_neg other]
    · rw [leaveRow_some h, if_neg other]
    · exact ⟨joinRow_some_of_disputed h n j, demandRow_some_of_disputed h n d, leaveRow_some_of_disputed h l⟩
  · refine ⟨(findRow_putRow ordered station n).trans (if_pos rfl), fun other => (findRow_putRow ordered station m).trans (if_neg other)⟩

/-! ### The table under the operations of the block -/

theorem isStationSender_iff (n : Sender) : isStationSender n = true ↔ 1 ≤ n.toNat ∧ n.toNat ≤ 16 := by simp [isStationSender]

/-- The demand of an accepted DEMAND lies in its range (R163). -/
theorem Accepts.demand_le {s : State} {n : Sender} {b : DemandBody} (h : Accepts s ⟨n, .demand b⟩) : b.demand.toNat ≤ 160 := by
  obtain ⟨-, inRange⟩ := h
  simp only [frameInRange, payloadInRange, isUnitsByte, Bool.and_eq_true, decide_eq_true_eq] at inRange
  exact inRange.2.1.1

theorem TableInv.of_table_eq {s t : State} (h : TableInv s) (same : t.table = s.table) : TableInv t := by
  unfold TableInv at *
  rwa [same]

theorem TableInv.of_empty {t : State} (empty : t.table = []) : TableInv t := by
  unfold TableInv
  rw [empty]
  exact ⟨.nil, nofun⟩

theorem recompute_tableInv {s : State} (h : TableInv s) (before : List Row) : TableInv (s.recompute before) := by
  unfold TableInv
  rw [State.recompute_table]
  exact recomputeRows_tableWf h _

theorem putRowOf_tableInv {s : State} (h : TableInv s) {n : Nat} {new : Option Row} (fits : RowFits n new) : TableInv (s.putRowOf n new) := by
  have placed : TableInv { s with table := putRow n new s.table } := putRow_tableWf h fits
  unfold State.putRowOf
  dsimp only
  split_ifs
  · exact recompute_tableInv placed _
  · exact placed

theorem putStage_tableInv {s : State} (h : TableInv s) (stage : Nat) : TableInv (s.putStage stage) := by
  unfold State.putStage
  split_ifs
  · exact h
  · exact recompute_tableInv (s := { s with feed.stage := stage }) h _

theorem adopt_tableInv {s : State} (h : TableInv s) (b : DemandBody) : TableInv (s.adopt b) := by
  unfold State.adopt
  split_ifs
  · exact putStage_tableInv (by exact h) _
  · exact h

theorem applyDemand_tableInv {s : State} (h : TableInv s) {n : Nat} (station : 1 ≤ n ∧ n ≤ 16) {b : DemandBody}
    (small : b.demand.toNat ≤ 160) : TableInv (s.applyDemand n b) :=
  putRowOf_tableInv h (demandRow_fits (findRow_fits h n) station small)

theorem takeDemand_tableInv {s : State} (h : TableInv s) {n : Nat} (station : 1 ≤ n ∧ n ≤ 16) {b : DemandBody}
    (small : b.demand.toNat ≤ 160) : TableInv (s.takeDemand n b) := by
  have counted : TableInv { s with choices := s.choices + 1 } := h
  unfold State.takeDemand
  dsimp only
  split_ifs
  · exact applyDemand_tableInv (adopt_tableInv counted b) station small
  · exact adopt_tableInv (applyDemand_tableInv counted station small) b
  · exact applyDemand_tableInv h station small

@[simp] theorem State.clampLimit_table (s : State) : s.clampLimit.table = s.table := by
  unfold State.clampLimit; split <;> simp

theorem stepUp_tableInv {s : State} (h : TableInv s) : TableInv s.stepUp := by
  unfold State.stepUp
  split_ifs
  · exact putStage_tableInv (s := { s with feed.quiet := .start quietMs, feed.low := .start lowMs }) h _
  · exact h

@[simp] theorem State.checkOnRise_table (s : State) : s.checkOnRise.table = s.table := by rw [checkOnRise_eq]

theorem leaveStrapPass_tableInv {s : State} (h : TableInv s) : TableInv s.leaveStrapPass := by
  unfold State.leaveStrapPass
  split_ifs
  · exact .of_empty (by simp)
  · exact .of_empty (by simp [State.hailFromDown])
  · exact h

theorem delivered_tableInv {v u : State} {r : Reading} (h : TableInv v) (delivered : Delivered v r u) : TableInv u := by
  cases delivered with
  | watched | kept | strapRead => exact h
  | bay => exact h.of_table_eq (by simp)
  | bayTwice => exact h.of_table_eq (by simp)
  | passEnds => exact leaveStrapPass_tableInv (s := v.withConfig _) h

theorem endLeaving_table (s : State) : s.endLeaving.table = [] := by
  unfold State.endLeaving
  dsimp only
  split_ifs <;> simp [State.hailFromDown]

theorem effect_tableInv {s u : State} {c : Instr} (h : TableInv s) (effect : Effect s c u) : TableInv u := by
  have accepted (own : Bool) : TableInv (afterAccept own s) := h
  cases effect with
  | nothing | lineIdle | unheard | vetoedByOthers | vetoedByThis | noBlock | queryAnswered | enLevel | driveEnded | rearmed | quietOver
  | censusOver | censusIdle | heartbeat | heartbeatIdle | isolationIdle | leaveIdle | muteIdle | statStep => exact h
  | sampled => exact ageRow_tableWf h
  | recorded input fell r => exact delivered_tableInv (v := afterCycle fell r s) (ageRow_tableWf h) (deliver_delivered _ _)
  | muted | duplicate | enabled | disabledHailing | isolated | muteOverEnabled | muteOverDisabled =>
    exact .of_empty (by simp [State.hailFromDown, State.hailFromMute])
  | joinOwn n b _ _ station =>
    exact putRowOf_tableInv (s := { afterAccept true s with line := _ }) h
      (joinRow_fits (findRow_fits h _) ((isStationSender_iff n).1 station) b)
  | joinPeer n b _ _ station =>
    exact putRowOf_tableInv (accepted false) (joinRow_fits (findRow_fits h _) ((isStationSender_iff n).1 station) b)
  | demandOwn n b accepts _ station =>
    exact takeDemand_tableInv (s := (afterAccept true s).announced b) h ((isStationSender_iff n).1 station) accepts.demand_le
  | demandAdopted => exact adopt_tableInv (accepted true) _
  | demandPeer n b accepts _ station => exact takeDemand_tableInv (accepted false) ((isStationSender_iff n).1 station) accepts.demand_le
  | leaveOwn | leaveOver => exact .of_empty (endLeaving_table _)
  | leavePeer => exact putRowOf_tableInv (accepted false) (leaveRow_fits (findRow_fits h _) _)
  | holdExpired | prechargeOver | chargeOver | disabledCounted | spacing => exact h.of_table_eq (by simp)
  | alarmFell => exact stepUp_tableInv (TableInv.of_table_eq (s := s) h (by simp))
  | alarmRose => exact h.of_table_eq (by simp)
  | stuck | quietStep => exact putStage_tableInv (by exact h) _
  | silenced n r row => exact putRowOf_tableInv h (silenceRow_fits (findRow_fits h n) row)
  | released => exact putRowOf_tableInv h nofun

/-- Settles O9: every effect keeps the table's form, and the end of a step does not touch the table. -/
theorem tableInvKept : Obligations.TableInvKept := fun _ _ h run =>
  step_keeps (fun _ _ h => h) (fun _ _ _ _ => .of_empty rfl) (fun _ _ _ h effect => (effect_tableInv h effect).of_table_eq (by simp)) h run

end Sys2Proof.Machine
end

section
/-! PROOFS. The commit unit: what a recompute hands over, what every operation built on recomputes keeps, and the obligations on L and T. -/

namespace Sys2Proof.Machine

set_option Elab.async false

/-! ### What is built on recomputes (R16, R25, R108) -/

/-- A property that a recompute keeps, and that reads nothing of the table, the cap stage and the free choices. A quiet remaining adopted
from a frame in range is 100 steps at most. -/
structure RecomputeClosed (P : State → Prop) : Prop where
  table : ∀ s rows, P s → P { s with table := rows }
  stage : ∀ s k, P s → P { s with feed.stage := k }
  quiet : ∀ s q, q ≤ 100 → P s → P { s with feed.quiet := .running (ms (100 * q)) }
  choices : ∀ s k, P s → P { s with choices := k }
  recompute : ∀ s before, P s → P (s.recompute before)

namespace RecomputeClosed

variable {P : State → Prop} (closed : RecomputeClosed P) {s : State} (h : P s)

include closed h

theorem putRowOf (n : Nat) (new : Option Row) : P (s.putRowOf n new) := by
  unfold State.putRowOf
  dsimp only
  split_ifs
  · exact closed.recompute _ _ (closed.table _ _ h)
  · exact closed.table _ _ h

theorem putStage (k : Nat) : P (s.putStage k) := by
  unfold State.putStage
  split_ifs
  · exact h
  · exact closed.recompute _ _ (closed.stage _ _ h)

theorem adopt {b : DemandBody} (small : b.quiet.toNat ≤ 100) : P (s.adopt b) := by
  unfold State.adopt
  split_ifs
  · exact closed.putStage (closed.quiet _ _ small h) _
  · exact h

theorem takeDemand (n : Nat) {b : DemandBody} (small : b.quiet.toNat ≤ 100) : P (s.takeDemand n b) := by
  unfold State.takeDemand State.applyDemand
  dsimp only
  split_ifs
  · exact closed.putRowOf (closed.adopt (closed.choices _ _ h) small) _ _
  · exact closed.adopt (closed.putRowOf (closed.choices _ _ h) _ _) small
  · exact closed.putRowOf h _ _

end RecomputeClosed

/-- The stage and the quiet remaining of an accepted DEMAND lie in their ranges (R163). -/
theorem Accepts.stage_quiet_le {s : State} {n : Sender} {b : DemandBody} (h : Accepts s ⟨n, .demand b⟩) :
    b.stage.toNat ≤ 2 ∧ b.quiet.toNat ≤ 100 := by
  obtain ⟨-, inRange⟩ := h
  simp only [frameInRange, payloadInRange, Bool.and_eq_true, decide_eq_true_eq] at inRange
  exact ⟨inRange.2.1.2, inRange.2.2⟩

/-! ### What a recompute hands over (R38, R43 to R46) -/

theorem Row.grant_of_not_live {r : Row} (h : r.live = false) : r.grant = 0 := by
  obtain ⟨_, status⟩ := r
  cases status with
  | joining | active => cases h
  | silent | disputed => rfl

/-- After a recompute no grant lies between 0 and a floor, whatever the order of the table (R34). -/
theorem grant_of_mem_recomputeRows {rows : List Row} {stage : Nat} {r : Row} (hr : r ∈ recomputeRows rows stage) :
    r.grant = 0 ∨ 4 ≤ r.grant := by
  rw [recomputeRows_eq_map] at hr
  obtain ⟨old, hold, rfl⟩ := List.mem_map.1 hr
  cases live : old.live with
  | false => exact .inl (Row.grant_of_not_live ((recomputeRow_live _ _ _).trans live))
  | true =>
    obtain ⟨basis, c, hc, written⟩ := recomputeRow_of_live hold live stage
    rw [written, Row.setGrant_grant live]
    exact Claim.grant_zero_or_floor hc

theorem targetOf_of_counted {s : State} {rows : List Row} (counted : LinkState.counted s.line.link = true) :
    targetOf s rows = ((s.ownNumber.bind fun n => findRow n rows).map Row.grant).getD 0 := by
  unfold targetOf
  rw [if_pos ((counted_iff _).1 counted)]
  cases s.ownNumber with
  | none => rfl
  | some n => cases h : findRow n rows <;> simp [h]

theorem targetOf_of_not_counted {s : State} {rows : List Row} (counted : LinkState.counted s.line.link = false) : targetOf s rows = 0 := by
  unfold targetOf
  rw [if_neg fun link => Bool.eq_false_iff.1 counted ((counted_iff _).2 link)]

/-- The target a recompute hands over is a grant, or 0. -/
theorem targetOf_recomputeRows (s : State) (rows : List Row) (stage : Nat) :
    targetOf s (recomputeRows rows stage) = 0 ∨ 4 ≤ targetOf s (recomputeRows rows stage) := by
  cases counted : LinkState.counted s.line.link with
  | false => exact .inl (targetOf_of_not_counted counted)
  | true =>
    rw [targetOf_of_counted counted]
    cases row : s.ownNumber.bind fun n => findRow n (recomputeRows rows stage) with
    | none => exact .inl rfl
    | some r =>
      obtain ⟨n, -, found⟩ := Option.bind_eq_some_iff.1 row
      exact grant_of_mem_recomputeRows (findRow_some found).1

/-- What a recompute makes of the commit unit. -/
theorem recompute_commit (before : List Row) (s : State) :
    (s.recompute before).commit =
      let target := targetOf s (recomputeRows s.table s.feed.stage)
      { target := target, limit := min s.commit.limit target
        hold := holdAfter s.commit.hold (isLowering before (recomputeRows s.table s.feed.stage)) s.pins.almHigh target
          (min s.commit.limit target) } := by
  simp only [State.recompute, State.handOver, ownTarget_eq, State.putCommit_commit]
  rfl

theorem holdAfter_idle_of_le {low high : Bool} {target limit : Nat} (le : target ≤ limit) : holdAfter .idle low high target limit = .idle :=
  if_neg fun above => by omega

theorem holdAfter_isRunning {hold : Timer} {low high : Bool} {target limit : Nat} (running : hold.isRunning = true → high = true)
    (after : (holdAfter hold low high target limit).isRunning = true) : high = true := by
  cases hold with
  | running left => exact running rfl
  | idle =>
    unfold holdAfter at after
    dsimp only at after
    split_ifs at after with starts
    · exact starts.2
    · cases after

theorem recompute_commitInv {s : State} (h : CommitInv s) (before : List Row) : CommitInv (s.recompute before) := by
  obtain ⟨le, limit, target, outside, high⟩ := h
  have form := targetOf_recomputeRows s s.table s.feed.stage
  unfold CommitInv
  rw [recompute_commit, State.recompute_line_link, State.recompute_pins]
  refine ⟨min_le_right _ _, ?_, form, fun uncounted => ?_, holdAfter_isRunning high⟩
  · dsimp only
    omega
  · obtain ⟨-, -, idle⟩ := outside uncounted
    dsimp only
    rw [targetOf_of_not_counted uncounted, idle]
    exact ⟨rfl, Nat.min_zero _, holdAfter_idle_of_le (Nat.zero_le _)⟩

theorem commitInv_closed : RecomputeClosed CommitInv :=
  ⟨fun _ _ h => h, fun _ _ h => h, fun _ _ _ h => h, fun _ _ h => h, fun _ before h => recompute_commitInv h before⟩

/-! ### T and L under the commands (R42 to R53) -/

theorem CommitInv.of_zero {s : State} (zero : s.commit = { target := 0, limit := 0, hold := .idle }) : CommitInv s := by
  unfold CommitInv
  rw [zero]
  exact ⟨le_rfl, .inl rfl, .inl rfl, fun _ => ⟨rfl, rfl, rfl⟩, nofun⟩

theorem CommitInv.of_eq {s t : State} (h : CommitInv s) (commit : t.commit = s.commit) (link : t.line.link = s.line.link)
    (pins : t.pins = s.pins) : CommitInv t := by
  unfold CommitInv at *
  rwa [commit, link, pins]

/-- A link state that counts asks no more of the commit unit than one that does not. -/
theorem CommitInv.of_counted {s t : State} (h : CommitInv s) (commit : t.commit = s.commit) (pins : t.pins = s.pins)
    (counted : LinkState.counted t.line.link = true) : CommitInv t := by
  obtain ⟨le, limit, target, -, high⟩ := h
  unfold CommitInv
  rw [commit, pins]
  exact ⟨le, limit, target, fun uncounted => absurd uncounted (by rw [counted]; decide), high⟩

theorem enterBarred_commit (s : State) : s.enterBarred.commit = { target := 0, limit := 0, hold := .idle } := State.zeroCommit_commit _
theorem enterMute_commit (s : State) : s.enterMute.commit = { target := 0, limit := 0, hold := .idle } := State.zeroCommit_commit _
theorem enterDown_commit (s : State) : s.enterDown.commit = { target := 0, limit := 0, hold := .idle } := State.zeroCommit_commit _
theorem enterLeaving_commit (s : State) : s.enterLeaving.commit = { target := 0, limit := 0, hold := .idle } := State.zeroCommit_commit _
theorem enterHailing_commit (s : State) : s.enterHailing.commit = { target := 0, limit := 0, hold := .idle } := State.zeroCommit_commit _
theorem hailFromDown_commit (s : State) : s.hailFromDown.commit = { target := 0, limit := 0, hold := .idle } := State.zeroCommit_commit _
theorem hailFromMute_commit (s : State) : s.hailFromMute.commit = { target := 0, limit := 0, hold := .idle } := State.zeroCommit_commit _

theorem endLeaving_commit (s : State) : s.endLeaving.commit = { target := 0, limit := 0, hold := .idle } := by
  unfold State.endLeaving
  dsimp only
  split_ifs
  · exact hailFromDown_commit _
  · exact enterDown_commit _

theorem leaveStrapPass_commit (s : State) :
    s.leaveStrapPass.commit = { target := 0, limit := 0, hold := .idle } ∨ s.leaveStrapPass = s := by
  unfold State.leaveStrapPass
  split_ifs
  · exact .inl (enterBarred_commit _)
  · exact .inl (hailFromDown_commit _)
  · exact .inr rfl

theorem delivered_commitInv {v u : State} {r : Reading} (h : CommitInv v) (delivered : Delivered v r u) : CommitInv u := by
  cases delivered with
  | watched | kept | strapRead => exact h
  | bay | bayTwice => exact h.of_eq (by simp) (by simp) (by simp)
  | passEnds channel c =>
    rcases leaveStrapPass_commit (v.withConfig c) with zero | same
    · exact .of_zero zero
    · rw [same]; exact h

theorem Timer.tick_isRunning (t : Timer) : t.tick.isRunning = t.isRunning := by cases t <;> rfl

theorem tick_commitInv {s : State} (h : CommitInv s) : CommitInv s.tick := by
  obtain ⟨le, limit, target, outside, high⟩ := h
  refine ⟨le, limit, target, fun uncounted => ?_, fun running => high ((Timer.tick_isRunning _).symm.trans running)⟩
  obtain ⟨noTarget, noLimit, idle⟩ := outside uncounted
  exact ⟨noTarget, noLimit, (Timer.tick_eq_idle_iff _).2 idle⟩

/-- Outside CENSUS and ON, and so in DOWN, MUTE and BARRED, the commit unit stands at 0; elsewhere the clamp cancels the hold (R48). -/
theorem clampLimit_commitInv {s : State} (h : CommitInv s) : CommitInv ({ s with pins.almHigh := false } : State).clampLimit := by
  obtain ⟨le, limit, target, outside, -⟩ := h
  unfold State.clampLimit
  split_ifs with takes
  · unfold CommitInv
    rw [State.putCommit_commit, State.putCommit_line_link]
    refine ⟨(min_le_left _ _).trans le, ?_, target, fun uncounted => ?_, nofun⟩
    · simp only [floorUnits]; omega
    · obtain ⟨noTarget, noLimit, -⟩ := outside uncounted
      simp only [noTarget, noLimit, Nat.zero_min, and_self]
  · have uncounted : LinkState.counted s.line.link = false := by
      revert takes
      cases s.line.link <;> simp [LinkState.takesAlarm, LinkState.counted]
    obtain ⟨noTarget, noLimit, idle⟩ := outside uncounted
    exact ⟨le, limit, target, outside, fun running => by rw [idle] at running; cases running⟩

theorem alarmRose_commitInv {s : State} (h : CommitInv s) :
    CommitInv ({ s with pins.almHigh := true, feed := s.feed.rise } : State).checkOnRise := by
  obtain ⟨le, limit, target, outside, -⟩ := h
  rw [checkOnRise_eq]
  refine ⟨le, limit, target, fun uncounted => ?_, fun _ => rfl⟩
  obtain ⟨noTarget, noLimit, idle⟩ := outside uncounted
  refine ⟨noTarget, noLimit, (checkOnRise_hold _).trans ?_⟩
  rw [if_neg fun starts => by have := starts.2.2; simp only [noTarget, noLimit] at this; omega]
  exact idle

theorem stepUp_keeps {P : State → Prop} (closed : RecomputeClosed P)
    (watch : ∀ s, P s → P { s with feed.quiet := .start quietMs, feed.low := .start lowMs }) {s : State} (h : P s) : P s.stepUp := by
  unfold State.stepUp
  split_ifs
  · exact closed.putStage (watch s h) _
  · exact h

theorem effect_commitInv {s u : State} {c : Instr} (h : CommitInv s) (effect : Effect s c u) : CommitInv u := by
  have accepted (own : Bool) : CommitInv (afterAccept own s) := h
  cases effect with
  | nothing | lineIdle | unheard | vetoedByOthers | vetoedByThis | noBlock | queryAnswered | enLevel | driveEnded | rearmed | quietOver
  | censusIdle | heartbeat | heartbeatIdle | isolationIdle | leaveIdle | muteIdle | statStep => exact h
  | sampled => exact tick_commitInv h
  | recorded input fell r => exact delivered_commitInv (v := afterCycle fell r s) (tick_commitInv h) (deliver_delivered _ _)
  | muted => exact .of_zero (enterMute_commit _)
  | duplicate => exact .of_zero (enterBarred_commit _)
  | enabled => exact .of_zero (hailFromDown_commit _)
  | disabledCounted => exact .of_zero (enterLeaving_commit _)
  | disabledHailing | muteOverDisabled => exact .of_zero (enterDown_commit _)
  | isolated => exact .of_zero (enterHailing_commit _)
  | muteOverEnabled => exact .of_zero (hailFromMute_commit _)
  | leaveOwn | leaveOver => exact .of_zero (endLeaving_commit _)
  | joinOwn => exact commitInv_closed.putRowOf (by exact CommitInv.of_counted h rfl rfl rfl) _ _
  | joinPeer | leavePeer => exact commitInv_closed.putRowOf (accepted false) _ _
  | demandOwn n b accepts =>
    exact commitInv_closed.takeDemand (s := (afterAccept true s).announced b) h _ accepts.stage_quiet_le.2
  | demandAdopted n b accepts => exact commitInv_closed.adopt (accepted true) accepts.stage_quiet_le.2
  | demandPeer n b accepts => exact commitInv_closed.takeDemand (accepted false) _ accepts.stage_quiet_le.2
  | holdExpired due =>
    obtain ⟨le, limit, target, outside, -⟩ := h
    unfold CommitInv
    rw [State.putCommit_commit, State.putCommit_line_link]
    refine ⟨?_, ?_, target, fun uncounted => ?_, nofun⟩
    · dsimp only; split_ifs <;> omega
    · dsimp only; split_ifs; exacts [target, limit]
    · obtain ⟨noTarget, noLimit, -⟩ := outside uncounted
      refine ⟨noTarget, ?_, rfl⟩
      dsimp only
      split_ifs
      exacts [noTarget, noLimit]
  | prechargeOver | chargeOver | spacing => exact h.of_eq (by simp) (by simp) (by simp)
  | censusOver => exact h.of_counted rfl rfl rfl
  | alarmFell => exact stepUp_keeps commitInv_closed (fun _ h => h) (clampLimit_commitInv h)
  | alarmRose => exact alarmRose_commitInv h
  | stuck | quietStep => exact commitInv_closed.putStage (by exact h) _
  | silenced | released => exact commitInv_closed.putRowOf h _ _

/-- Settles O11: the target is a grant or 0, L is only ever lowered to it or raised to it, and every entry outside CENSUS and ON clears both. -/
theorem commitInvKept : Obligations.CommitInvKept := fun _ _ h run =>
  step_keeps (fun _ _ h => h) (fun _ _ _ _ => .of_zero rfl)
    (fun _ _ _ h effect => (effect_commitInv h effect).of_eq (by simp) (by simp) (by simp)) h run

/-! ### L rises at a hold's end alone (R47, R50, R53) -/

/-- L is no higher than a bound. -/
def LimitWithin (bound : Nat) (s : State) : Prop := s.commit.limit ≤ bound

theorem limitWithin_closed (bound : Nat) : RecomputeClosed (LimitWithin bound) where
  table _ _ h := h
  stage _ _ h := h
  quiet _ _ _ h := h
  choices _ _ h := h
  recompute s before h := by
    unfold LimitWithin
    rw [recompute_commit]
    exact (min_le_left _ _).trans h

theorem LimitWithin.of_zero {bound : Nat} {s : State} (zero : s.commit = { target := 0, limit := 0, hold := .idle }) : LimitWithin bound s := by
  unfold LimitWithin
  rw [zero]
  exact Nat.zero_le _

theorem LimitWithin.of_eq {bound : Nat} {s t : State} (h : LimitWithin bound s) (commit : t.commit = s.commit) : LimitWithin bound t := by
  unfold LimitWithin at *
  rwa [commit]

theorem delivered_limitWithin {bound : Nat} {v u : State} {r : Reading} (h : LimitWithin bound v) (delivered : Delivered v r u) :
    LimitWithin bound u := by
  cases delivered with
  | watched | kept | strapRead => exact h
  | bay | bayTwice => exact h.of_eq (by simp)
  | passEnds channel c =>
    rcases leaveStrapPass_commit (v.withConfig c) with zero | same
    · exact .of_zero zero
    · rw [same]; exact h

/-- Every effect but a raise hold's end leaves L no higher. -/
theorem effect_limitWithin {bound : Nat} {s u : State} {c : Instr} (h : LimitWithin bound s) (effect : Effect s c u) :
    LimitWithin bound u ∨ c = .raiseHoldExpiry ∧ s.commit.hold = .running 0 ∧ s.pins.almHigh = true ∧ u.commit.limit = s.commit.target := by
  have closed := limitWithin_closed bound
  have accepted (own : Bool) : LimitWithin bound (afterAccept own s) := h
  cases effect with
  | holdExpired due =>
    rw [State.putCommit_commit]
    by_cases rises : s.pins.almHigh = true ∧ s.commit.limit < s.commit.target
    · exact .inr ⟨rfl, due, rises.1, if_pos rises⟩
    · left
      unfold LimitWithin
      rw [State.putCommit_commit]
      exact (if_neg rises).trans_le h
  | nothing | lineIdle | unheard | vetoedByOthers | vetoedByThis | noBlock | queryAnswered | enLevel | driveEnded | rearmed | quietOver
  | censusOver | censusIdle | heartbeat | heartbeatIdle | isolationIdle | leaveIdle | muteIdle | statStep | sampled => exact .inl h
  | recorded input fell r => exact .inl (delivered_limitWithin (v := afterCycle fell r s) h (deliver_delivered _ _))
  | muted => exact .inl (.of_zero (enterMute_commit _))
  | duplicate => exact .inl (.of_zero (enterBarred_commit _))
  | enabled => exact .inl (.of_zero (hailFromDown_commit _))
  | disabledCounted => exact .inl (.of_zero (enterLeaving_commit _))
  | disabledHailing | muteOverDisabled => exact .inl (.of_zero (enterDown_commit _))
  | isolated => exact .inl (.of_zero (enterHailing_commit _))
  | muteOverEnabled => exact .inl (.of_zero (hailFromMute_commit _))
  | leaveOwn | leaveOver => exact .inl (.of_zero (endLeaving_commit _))
  | joinOwn => exact .inl (closed.putRowOf (by exact h) _ _)
  | joinPeer | leavePeer => exact .inl (closed.putRowOf (accepted false) _ _)
  | demandOwn n b accepts => exact .inl (closed.takeDemand (s := (afterAccept true s).announced b) h _ accepts.stage_quiet_le.2)
  | demandAdopted n b accepts => exact .inl (closed.adopt (accepted true) accepts.stage_quiet_le.2)
  | demandPeer n b accepts => exact .inl (closed.takeDemand (accepted false) _ accepts.stage_quiet_le.2)
  | prechargeOver | chargeOver | spacing => exact .inl (h.of_eq (by simp))
  | alarmFell =>
    refine .inl (stepUp_keeps closed (fun _ h => h) ?_)
    unfold State.clampLimit
    split_ifs
    · unfold LimitWithin
      rw [State.putCommit_commit]
      exact (min_le_left _ _).trans h
    · exact h
  | alarmRose => left; rw [checkOnRise_eq]; exact h
  | stuck | quietStep => exact .inl (closed.putStage (by exact h) _)
  | silenced | released => exact .inl (closed.putRowOf h _ _)

/-- Settles O20: no other effect leaves L above what it was. -/
theorem limitRisesOnlyAtHoldExpiry : Obligations.LimitRisesOnlyAtHoldExpiry := by
  intro c s t run rises
  have start : LimitWithin s.commit.limit s := le_rfl
  cases stepped_of_exec run with
  | powerOn | supplyMonitorReset => exact absurd rises (Nat.not_lt_zero _)
  | stood => exact absurd rises (lt_irrefl _)
  | effect effect =>
    rw [State.settle_commit] at *
    rcases effect_limitWithin start effect with within | expiry
    · exact absurd rises (Nat.not_lt.2 within)
    · exact expiry

end Sys2Proof.Machine
end

section
/-! PROOFS. The feed watch and the link states in which ALM is tracked, and the obligation on both. -/

namespace Sys2Proof.Machine

set_option Elab.async false

/-! ### The feed watch under a level of ALM (R99 to R107) -/

/-- What FeedInv asks of the feed watch, the level of ALM being given. -/
def FeedWatch.Sound (high : Bool) (f : FeedWatch) : Prop :=
  f.stage ≤ 2 ∧ f.droop ≤ 1 ∧ (f.stuck = true → f.stage = 2 ∧ high = false ∧ f.tracking = true) ∧
    (f.low.isRunning = true → high = false ∧ f.tracking = true)

theorem feedInv_iff (s : State) : FeedInv s ↔ s.feed.Sound s.pins.almHigh := Iff.rfl

section Sound

variable {f : FeedWatch} {high : Bool}

theorem FeedWatch.Sound.droopNoted {f' : FeedWatch} (h : f.Sound high) (noted : DroopNoted f f') : f'.Sound high := by
  obtain ⟨stage, -, stuck, low⟩ := h
  cases noted with
  | counted k small => exact ⟨stage, small, stuck, low⟩
  | pulse => exact ⟨stage, Nat.zero_le _, stuck, low⟩

theorem FeedWatch.Sound.leaveTracking (h : f.Sound high) : f.leaveTracking.Sound high := ⟨Nat.zero_le _, h.2.1, nofun, nofun⟩

/-- The low timer that tracking begins with runs only with ALM low (R103). -/
theorem FeedWatch.Sound.beginTracking (h : f.Sound high) : (f.beginTracking high).Sound high := by
  obtain ⟨stage, droop, stuck, low⟩ := h
  refine ⟨stage, droop, fun isStuck => ?_, fun running => ?_⟩
  · obtain ⟨two, isLow, -⟩ := stuck isStuck
    exact ⟨two, isLow, rfl⟩
  · cases high with
    | false => exact ⟨rfl, rfl⟩
    | true => exact absurd (low running).1 (by decide)

theorem FeedWatch.Sound.rise (h : f.Sound high) : f.rise.Sound true := by
  obtain ⟨stage, droop, stuck, low⟩ := h
  cases tracking : f.tracking with
  | true =>
    rw [FeedWatch.rise_of_tracking tracking]
    exact ⟨stage, droop, nofun, nofun⟩
  | false =>
    rw [FeedWatch.rise_of_not_tracking tracking]
    have untracked {p : Prop} (h : f.tracking = true) : p := by rw [tracking] at h; cases h
    exact ⟨stage, droop, fun isStuck => untracked (stuck isStuck).2.2, fun running => untracked (low running).2⟩

/-- A falling edge while tracking (R104). -/
theorem FeedWatch.Sound.stepUp (h : f.Sound high) (tracking : f.tracking = true) :
    FeedWatch.Sound false { f with quiet := .start quietMs, low := .start lowMs, stage := min (f.stage + 1) 2 } := by
  obtain ⟨stage, droop, stuck, -⟩ := h
  refine ⟨min_le_right _ _, droop, fun isStuck => ?_, fun _ => ⟨rfl, tracking⟩⟩
  have two := (stuck isStuck).1
  exact ⟨by dsimp only; omega, rfl, tracking⟩

/-- A stage above the own one can be adopted: the feed watch is then not stuck, for a stuck one stands at 2 (R105, R108). -/
theorem FeedWatch.Sound.adopt (h : f.Sound high) {k : Nat} (above : f.stage < k) (small : k ≤ 2) (quiet : Timer) :
    FeedWatch.Sound high { f with quiet := quiet, stage := k } := by
  obtain ⟨-, droop, stuck, low⟩ := h
  refine ⟨small, droop, fun isStuck => ?_, low⟩
  have two := (stuck isStuck).1
  omega

/-- ALM stuck (R105): the low timer ran, so ALM is low and tracked. -/
theorem FeedWatch.Sound.stuck (h : f.Sound high) (due : f.low = .running 0) :
    FeedWatch.Sound high { f with low := .idle, stuck := true, stage := 2 } := by
  obtain ⟨-, droop, -, low⟩ := h
  exact ⟨le_rfl, droop, fun _ => ⟨rfl, low (by rw [due]; rfl)⟩, nofun⟩

/-- A step down of the stage (R107): with ALM high the feed watch is not stuck. -/
theorem FeedWatch.Sound.stepDown (h : f.Sound true) (quiet : Timer) :
    FeedWatch.Sound true { f with quiet := quiet, stage := f.stage - 1 } := by
  obtain ⟨stage, droop, stuck, low⟩ := h
  exact ⟨(Nat.sub_le _ _).trans stage, droop, fun isStuck => absurd (stuck isStuck).2.1 (by decide), low⟩

end Sound

/-! ### The feed watch under the operations -/

theorem putStage_feed (k : Nat) (s : State) : (s.putStage k).feed = { s.feed with stage := k } := by
  unfold State.putStage
  split_ifs with same
  · rw [same]
  · simp

/-- An adopted DEMAND writes stage and quiet timer, and only where its stage is above the own one (R108). -/
theorem adopt_feed (b : DemandBody) (s : State) :
    (s.adopt b).feed =
      if s.feed.stage < b.stage.toNat then { s.feed with quiet := .running (ms (100 * b.quiet.toNat)), stage := b.stage.toNat } else s.feed := by
  unfold State.adopt
  split_ifs
  · exact putStage_feed _ _
  · rfl

theorem takeDemand_feed (n : Nat) (b : DemandBody) (s : State) : (s.takeDemand n b).feed = (s.adopt b).feed := by
  rw [adopt_feed]
  unfold State.takeDemand
  dsimp only
  split_ifs
  · rw [State.applyDemand_feed, adopt_feed, if_pos (by assumption)]
  · rw [adopt_feed, State.applyDemand_feed, if_pos (by assumption)]
  · exact State.applyDemand_feed _ _ _

@[simp] theorem State.clampLimit_pins (s : State) : s.clampLimit.pins = s.pins := by
  unfold State.clampLimit
  split_ifs <;> simp

@[simp] theorem State.clampLimit_line_link (s : State) : s.clampLimit.line.link = s.line.link := by
  unfold State.clampLimit
  split_ifs <;> simp

@[simp] theorem State.stepUp_pins (s : State) : s.stepUp.pins = s.pins := by
  unfold State.stepUp
  split_ifs <;> simp

@[simp] theorem State.stepUp_line_link (s : State) : s.stepUp.line.link = s.line.link := by
  unfold State.stepUp
  split_ifs <;> simp

@[simp] theorem FeedWatch.rise_tracking (f : FeedWatch) : f.rise.tracking = f.tracking := by
  unfold FeedWatch.rise
  split_ifs <;> rfl

theorem stepUp_feed (s : State) :
    s.stepUp.feed =
      if s.feed.tracking then { s.feed with quiet := .start quietMs, low := .start lowMs, stage := min (s.feed.stage + 1) 2 } else s.feed := by
  unfold State.stepUp
  split_ifs
  · exact putStage_feed _ _
  · rfl

/-! ### Both invariants at once (R103) -/

/-- ALM is tracked in this link state (R103). -/
def LinkState.tracks (l : LinkState) : Prop := l ≠ .down ∧ l ≠ .barred

theorem trackingInv_iff (s : State) : TrackingInv s ↔ (s.feed.tracking = true ↔ LinkState.tracks s.line.link) := Iff.rfl

theorem tracks_of_takesLine {s : State} (takes : s.takesLine = true) : LinkState.tracks s.line.link := by
  constructor <;> intro link <;> simp [State.takesLine, link] at takes

theorem tracks_of_counted {l : LinkState} (counted : LinkState.counted l = true) : LinkState.tracks l := by
  rcases (counted_iff l).1 counted with rfl | rfl <;> exact ⟨nofun, nofun⟩

/-- The feed watch in its form, and tracking as the link state requires. -/
def Watched (s : State) : Prop := FeedInv s ∧ TrackingInv s

/-- Between two link states that track ALM, or within one, the feed watch may stay or change within its form. -/
theorem Watched.of_feed {s t : State} (h : Watched s) (feed : FeedWatch.Sound t.pins.almHigh t.feed)
    (tracking : t.feed.tracking = s.feed.tracking) (link : LinkState.tracks t.line.link ↔ LinkState.tracks s.line.link) : Watched t :=
  ⟨feed, by rw [trackingInv_iff, tracking, link]; exact h.2⟩

theorem Watched.of_eq {s t : State} (h : Watched s) (feed : t.feed = s.feed) (pins : t.pins = s.pins) (link : t.line.link = s.line.link) :
    Watched t :=
  h.of_feed (by rw [feed, pins]; exact h.1) (by rw [feed]) (by rw [link])

theorem Watched.moves {s t : State} (h : Watched s) (feed : t.feed = s.feed) (pins : t.pins.almHigh = s.pins.almHigh)
    (old : LinkState.tracks s.line.link) (new : LinkState.tracks t.line.link) : Watched t :=
  h.of_feed (by rw [feed, pins]; exact h.1) (by rw [feed]) (iff_of_true new old)

/-- In DOWN and BARRED the feed watch rests (R99). -/
theorem Watched.rests {s t : State} (h : Watched s) (feed : t.feed = s.feed.leaveTracking) (pins : t.pins.almHigh = s.pins.almHigh)
    (link : t.line.link = .down ∨ t.line.link = .barred) : Watched t := by
  refine ⟨?_, ?_⟩
  · rw [feedInv_iff, feed, pins]
    exact FeedWatch.Sound.leaveTracking h.1
  · rw [trackingInv_iff, feed]
    refine iff_of_false nofun fun ⟨notDown, notBarred⟩ => ?_
    exact link.elim notDown notBarred

theorem Watched.begins {s t : State} (h : Watched s) (feed : t.feed = s.feed.beginTracking s.pins.almHigh) (pins : t.pins = s.pins)
    (link : t.line.link = .hailing) : Watched t := by
  refine ⟨?_, ?_⟩
  · rw [feedInv_iff, feed, pins]
    exact FeedWatch.Sound.beginTracking h.1
  · rw [trackingInv_iff, feed, link]
    exact iff_of_true rfl ⟨nofun, nofun⟩

theorem Watched.powerOn {t : State} (feed : t.feed = .atPowerOn) (link : t.line.link = .down) : Watched t := by
  refine ⟨?_, ?_⟩
  · rw [feedInv_iff, feed]
    exact ⟨Nat.zero_le _, Nat.zero_le _, nofun, nofun⟩
  · rw [trackingInv_iff, feed, link]
    exact iff_of_false nofun fun tracks => tracks.1 rfl

theorem Watched.enterDown {s : State} (h : Watched s) : Watched s.enterDown := h.rests (by simp [State.enterDown]) (by simp) (.inl (by simp))

theorem Watched.enterBarred {s : State} (h : Watched s) : Watched s.enterBarred :=
  h.rests (by simp [State.enterBarred]) (by simp) (.inr (by simp))

theorem Watched.hailFromDown {s : State} (h : Watched s) : Watched s.hailFromDown :=
  h.begins (by simp [State.hailFromDown, State.enterHailing]) (by simp) (by simp)

theorem Watched.endLeaving {s : State} (h : Watched s) : Watched s.endLeaving := by
  unfold State.endLeaving
  dsimp only
  split_ifs
  exacts [h.enterDown.hailFromDown, h.enterDown]

theorem Watched.leaveStrapPass {s : State} (h : Watched s) : Watched s.leaveStrapPass := by
  unfold State.leaveStrapPass
  split_ifs
  exacts [h.enterBarred, h.hailFromDown, h]

theorem Watched.tick {s : State} (h : Watched s) : Watched s.tick := by
  obtain ⟨⟨stage, droop, stuck, low⟩, tracking⟩ := h
  exact ⟨⟨stage, droop, stuck, fun running => low ((Timer.tick_isRunning _).symm.trans running)⟩, tracking⟩

theorem Watched.delivered {v u : State} {r : Reading} (h : Watched v) (delivered : Delivered v r u) : Watched u := by
  cases delivered with
  | watched f running noted =>
    refine h.of_feed (FeedWatch.Sound.droopNoted h.1 noted) ?_ Iff.rfl
    cases noted <;> rfl
  | kept | strapRead => exact h
  | bay | bayTwice => exact h.of_eq (by simp) (by simp) (by simp)
  | passEnds channel c => exact Watched.leaveStrapPass (s := v.withConfig c) h

theorem Watched.putRowOf {s : State} (h : Watched s) (n : Nat) (new : Option Row) : Watched (s.putRowOf n new) :=
  h.of_eq (by simp) (by simp) (by simp)

/-- The adoption of an accepted DEMAND, whose stage is 2 at most (R108, R163). -/
theorem Watched.adopted {s t : State} {b : DemandBody} (h : Watched s) (small : b.stage.toNat ≤ 2) (feed : t.feed = (s.adopt b).feed)
    (pins : t.pins = s.pins) (link : t.line.link = s.line.link) : Watched t := by
  rw [adopt_feed] at feed
  split_ifs at feed with above
  · exact h.of_feed (by rw [feed, pins]; exact FeedWatch.Sound.adopt h.1 above small _) (by rw [feed]) (by rw [link])
  · exact h.of_eq feed pins link

theorem Watched.takeDemand {s : State} {b : DemandBody} (h : Watched s) (n : Nat) (small : b.stage.toNat ≤ 2) : Watched (s.takeDemand n b) :=
  h.adopted small (takeDemand_feed n b s) (by simp) (by simp)

theorem Watched.alarmFell {s : State} (h : Watched s) : Watched ({ s with pins.almHigh := false } : State).clampLimit.stepUp := by
  let low : State := { s with pins.almHigh := false }
  have feed : low.clampLimit.stepUp.feed = _ := stepUp_feed _
  have pins : low.clampLimit.stepUp.pins.almHigh = false := by simp [low]
  have link : low.clampLimit.stepUp.line.link = s.line.link := by simp [low]
  rw [State.clampLimit_feed] at feed
  obtain ⟨stage, droop, stuck, running⟩ := h.1
  split_ifs at feed with tracking
  · refine h.of_feed ?_ (by rw [feed]) (by rw [link])
    rw [feed, pins]
    exact FeedWatch.Sound.stepUp h.1 tracking
  · refine h.of_feed ?_ (by rw [feed]) (by rw [link])
    rw [feed, pins]
    exact ⟨stage, droop, fun isStuck => absurd (stuck isStuck).2.2 tracking, fun run => absurd (running run).2 tracking⟩

theorem Watched.alarmRose {s : State} (h : Watched s) :
    Watched ({ s with pins.almHigh := true, feed := s.feed.rise } : State).checkOnRise := by
  rw [checkOnRise_eq]
  exact h.of_feed (FeedWatch.Sound.rise h.1) (FeedWatch.rise_tracking _) Iff.rfl

theorem Watched.effect {s u : State} {c : Instr} (h : Watched s) (effect : Effect s c u) : Watched u := by
  cases effect with
  | nothing | lineIdle | unheard | vetoedByOthers | vetoedByThis | noBlock | queryAnswered | enLevel | driveEnded | rearmed | quietOver
  | censusIdle | heartbeat | heartbeatIdle | isolationIdle | leaveIdle | muteIdle | statStep => exact h
  | sampled => exact h.tick
  | recorded input fell r => exact Watched.delivered (v := afterCycle fell r s) h.tick (deliver_delivered _ _)
  | muted c takes =>
    exact h.moves (by simp [State.enterMute, afterVeto]) (by simp [afterVeto]) (tracks_of_takesLine takes) (by simp [LinkState.tracks])
  | duplicate => exact Watched.enterBarred (s := afterAccept false s) h
  | joinOwn n b accepts =>
    exact h.moves (by simp [State.enterCensus, afterAccept]) (by simp [State.enterCensus, afterAccept]) (tracks_of_takesLine accepts.1)
      (by simp [State.enterCensus, LinkState.tracks])
  | joinPeer | leavePeer => exact Watched.putRowOf (s := afterAccept false s) h _ _
  | demandOwn n b accepts =>
    exact Watched.takeDemand (s := (afterAccept true s).announced b) h _ accepts.stage_quiet_le.1
  | demandAdopted n b accepts =>
    exact Watched.adopted (s := afterAccept true s) h accepts.stage_quiet_le.1 rfl (by simp) (by simp)
  | demandPeer n b accepts => exact Watched.takeDemand (s := afterAccept false s) h _ accepts.stage_quiet_le.1
  | leaveOwn => exact (Watched.putRowOf (s := afterAccept true s) h _ _).endLeaving
  | holdExpired | prechargeOver | chargeOver | spacing => exact h.of_eq (by simp) (by simp) (by simp)
  | enabled => exact Watched.hailFromDown (s := { s with pins.en := true }) h
  | disabledCounted link =>
    exact h.moves (by simp [State.enterLeaving]) (by simp) (tracks_of_counted link) (by simp [LinkState.tracks])
  | disabledHailing => exact Watched.enterDown (s := { s with pins.en := false }) h
  | alarmFell => exact h.alarmFell
  | alarmRose => exact h.alarmRose
  | stuck due =>
    have sound := FeedWatch.Sound.stuck h.1 due
    exact h.of_feed (by rw [putStage_feed, State.putStage_pins]; exact sound) (by simp) (by simp)
  | quietStep due high above =>
    have sound := h.1
    rw [feedInv_iff, high] at sound
    refine h.of_feed ?_ (by simp) (by simp)
    rw [putStage_feed, State.putStage_pins]
    exact high ▸ sound.stepDown _
  | censusOver due link => exact h.moves rfl rfl (by rw [link]; exact ⟨nofun, nofun⟩) (by simp [LinkState.tracks])
  | isolated due link => exact h.moves (by simp [State.enterHailing]) (by simp) (tracks_of_counted link) (by simp [LinkState.tracks])
  | leaveOver => exact Watched.endLeaving (s := { s with line.timers.leave := .idle }) h
  | muteOverEnabled due link =>
    exact h.moves (by simp [State.hailFromMute, State.enterHailing]) (by simp) (by rw [link]; exact ⟨nofun, nofun⟩) (by simp [LinkState.tracks])
  | muteOverDisabled => exact Watched.enterDown (s := { s with line.timers.mute := .idle }) h
  | silenced | released => exact h.putRowOf _ _

/-- Settles O10: the two invariants hold one another, for the stuck flag and the low timer stand only where ALM is tracked. -/
theorem feedInvKept : Obligations.FeedInvKept := fun _ _ feed tracking run =>
  step_keeps (P := Watched) (fun _ _ h => h) (fun _ _ _ _ => .powerOn rfl rfl)
    (fun _ _ _ h effect => (h.effect effect).of_eq (by simp) (by simp) (by simp)) ⟨feed, tracking⟩ run

end Sys2Proof.Machine
end

section
/-! PROOFS. The timers: none has more left than its setting, and those of station life run by the link state; the obligation on both. -/

namespace Sys2Proof.Machine

set_option Elab.async false

/-! ### Within the settings (R42, R58, R99) -/

theorem Timer.within_start (setting : Nat) : (Timer.start setting).within setting := le_refl (ms setting)

theorem Timer.within_tick {t : Timer} {setting : Nat} (h : t.within setting) : t.tick.within setting := by
  cases t with
  | idle => trivial
  | running left => exact (Nat.sub_le _ _).trans h

/-- The timers of the feed watch lie within their settings. -/
def FeedWatch.TimersWithin (f : FeedWatch) : Prop :=
  f.drive.within almDriveMs ∧ f.rearm.within rearmMs ∧ f.low.within lowMs ∧ f.quiet.within quietMs

/-- The timers of station life lie within their settings. -/
def LifeTimers.Within (w : LifeTimers) : Prop :=
  w.census.within censusMs ∧ w.heartbeat.within heartbeatMs ∧ w.spacing.within spacingMs ∧ w.isolation.within isolationMs ∧
    w.leave.within leaveMs ∧ w.mute.within muteMs

theorem timersInv_iff (s : State) :
    TimersInv s ↔ s.feed.TimersWithin ∧ s.line.timers.Within ∧ s.commit.hold.within raiseHoldMs := by
  unfold TimersInv FeedWatch.TimersWithin LifeTimers.Within
  tauto

theorem LifeTimers.allIdle_within : LifeTimers.allIdle.Within := ⟨trivial, trivial, trivial, trivial, trivial, trivial⟩

theorem TimersInv.mk {s : State} (feed : s.feed.TimersWithin) (life : s.line.timers.Within) (hold : s.commit.hold.within raiseHoldMs) :
    TimersInv s := (timersInv_iff s).2 ⟨feed, life, hold⟩

theorem TimersInv.feed {s : State} (h : TimersInv s) : s.feed.TimersWithin := ((timersInv_iff s).1 h).1
theorem TimersInv.life {s : State} (h : TimersInv s) : s.line.timers.Within := ((timersInv_iff s).1 h).2.1
theorem TimersInv.hold {s : State} (h : TimersInv s) : s.commit.hold.within raiseHoldMs := ((timersInv_iff s).1 h).2.2

theorem TimersInv.of_eq {s t : State} (h : TimersInv s) (feed : t.feed = s.feed) (timers : t.line.timers = s.line.timers)
    (hold : t.commit.hold = s.commit.hold) : TimersInv t :=
  .mk (by rw [feed]; exact h.feed) (by rw [timers]; exact h.life) (by rw [hold]; exact h.hold)

/-- What an entry of a link state leaves: a hold that is cancelled. -/
theorem TimersInv.of_zero {s : State} (feed : s.feed.TimersWithin) (life : s.line.timers.Within)
    (zero : s.commit = { target := 0, limit := 0, hold := .idle }) : TimersInv s := .mk feed life (by rw [zero]; trivial)

theorem holdAfter_within {hold : Timer} (h : hold.within raiseHoldMs) (low high : Bool) (target limit : Nat) :
    (holdAfter hold low high target limit).within raiseHoldMs := by
  cases hold with
  | idle =>
    unfold holdAfter
    dsimp only
    split_ifs
    exacts [Timer.within_start _, trivial]
  | running left =>
    unfold holdAfter
    dsimp only
    split_ifs
    exacts [Timer.within_start _, h]

theorem timersInv_closed : RecomputeClosed TimersInv where
  table _ _ h := h
  stage _ _ h := h
  quiet _ _ small h :=
    .mk ⟨h.feed.1, h.feed.2.1, h.feed.2.2.1, Nat.mul_le_mul_left 40 (Nat.mul_le_mul_left 100 small)⟩ h.life h.hold
  choices _ _ h := h
  recompute s before h := by
    refine .mk (by simpa using h.feed) (by simpa using h.life) ?_
    rw [recompute_commit]
    exact holdAfter_within h.hold _ _ _ _

namespace FeedWatch.TimersWithin

variable {f : FeedWatch} (h : f.TimersWithin)

include h

theorem tick : ({ f with drive := f.drive.tick, rearm := f.rearm.tick, low := f.low.tick, quiet := f.quiet.tick } :
    FeedWatch).TimersWithin := by
  obtain ⟨drive, rearm, low, quiet⟩ := h
  exact ⟨Timer.within_tick drive, Timer.within_tick rearm, Timer.within_tick low, Timer.within_tick quiet⟩

theorem droopNoted {f' : FeedWatch} (noted : DroopNoted f f') : f'.TimersWithin := by
  obtain ⟨-, -, low, quiet⟩ := id h
  cases noted with
  | counted => exact h
  | pulse => exact ⟨Timer.within_start _, Timer.within_start _, low, quiet⟩

theorem leaveTracking : f.leaveTracking.TimersWithin := ⟨h.1, h.2.1, trivial, trivial⟩

theorem beginTracking (high : Bool) : (f.beginTracking high).TimersWithin := by
  obtain ⟨drive, rearm, low, quiet⟩ := h
  refine ⟨drive, rearm, ?_, quiet⟩
  unfold FeedWatch.beginTracking
  dsimp only
  split_ifs
  exacts [low, Timer.within_start _]

theorem rise : f.rise.TimersWithin := by
  unfold FeedWatch.rise
  split_ifs
  exacts [⟨h.1, h.2.1, trivial, Timer.within_start _⟩, h]

end FeedWatch.TimersWithin

theorem LifeTimers.Within.tick {w : LifeTimers} (h : w.Within) :
    ({ census := w.census.tick, heartbeat := w.heartbeat.tick, spacing := w.spacing.tick, isolation := w.isolation.tick
       leave := w.leave.tick, mute := w.mute.tick } : LifeTimers).Within := by
  obtain ⟨census, heartbeat, spacing, isolation, leave, mute⟩ := h
  exact ⟨Timer.within_tick census, Timer.within_tick heartbeat, Timer.within_tick spacing, Timer.within_tick isolation,
    Timer.within_tick leave, Timer.within_tick mute⟩

section Entry

variable {s : State} (h : TimersInv s)

include h

theorem TimersInv.tick : TimersInv s.tick := .mk h.feed.tick h.life.tick (Timer.within_tick h.hold)

theorem TimersInv.enterDown : TimersInv s.enterDown := by
  obtain ⟨census, heartbeat, spacing, isolation, -, mute⟩ := h.life
  refine .of_zero ?_ ?_ (enterDown_commit s)
  · simpa [State.enterDown] using h.feed.leaveTracking
  · simp only [State.enterDown, State.zeroCommit_line_timers]
    exact ⟨census, heartbeat, spacing, isolation, trivial, mute⟩

theorem TimersInv.enterBarred : TimersInv s.enterBarred := by
  refine .of_zero ?_ ?_ (enterBarred_commit s)
  · simpa [State.enterBarred] using h.feed.leaveTracking
  · simpa [State.enterBarred] using LifeTimers.allIdle_within

theorem TimersInv.enterHailing : TimersInv s.enterHailing := by
  refine .of_zero ?_ ?_ (enterHailing_commit s)
  · simpa [State.enterHailing] using h.feed
  · simpa [State.enterHailing] using LifeTimers.allIdle_within

theorem TimersInv.hailFromDown : TimersInv s.hailFromDown :=
  TimersInv.enterHailing (s := { s with line.admitted := false, feed := s.feed.beginTracking s.pins.almHigh })
    (.mk (h.feed.beginTracking _) h.life h.hold)

theorem TimersInv.enterMute : TimersInv s.enterMute := by
  refine .of_zero ?_ ?_ (enterMute_commit s)
  · simpa [State.enterMute] using h.feed
  · simp only [State.enterMute, State.zeroCommit_line_timers]
    exact ⟨trivial, trivial, trivial, trivial, trivial, Timer.within_start _⟩

theorem TimersInv.enterLeaving : TimersInv s.enterLeaving := by
  obtain ⟨-, -, -, -, -, mute⟩ := h.life
  refine .of_zero ?_ ?_ (enterLeaving_commit s)
  · simpa [State.enterLeaving] using h.feed
  · simp only [State.enterLeaving, State.zeroCommit_line_timers]
    exact ⟨trivial, trivial, trivial, trivial, Timer.within_start _, mute⟩

theorem TimersInv.enterCensus (n : Nat) (b : JoinBody) : TimersInv (s.enterCensus n b) := by
  obtain ⟨-, -, spacing, -, leave, mute⟩ := h.life
  unfold State.enterCensus
  refine timersInv_closed.putRowOf ?_ _ _
  refine .mk h.feed ?_ h.hold
  exact ⟨Timer.within_start _, Timer.within_start _, spacing, Timer.within_start _, leave, mute⟩

theorem TimersInv.announced (b : DemandBody) : TimersInv (s.announced b) := by
  obtain ⟨census, -, -, -, leave, mute⟩ := h.life
  refine .mk h.feed ?_ h.hold
  exact ⟨census, Timer.within_start _, Timer.within_start _, Timer.within_start _, leave, mute⟩

theorem TimersInv.endLeaving : TimersInv s.endLeaving := by
  unfold State.endLeaving
  dsimp only
  split_ifs
  exacts [h.enterDown.hailFromDown, h.enterDown]

theorem TimersInv.leaveStrapPass : TimersInv s.leaveStrapPass := by
  unfold State.leaveStrapPass
  split_ifs
  exacts [h.enterBarred, h.hailFromDown, h]

end Entry

theorem TimersInv.delivered {v u : State} {r : Reading} (h : TimersInv v) (delivered : Delivered v r u) : TimersInv u := by
  cases delivered with
  | watched f running noted => exact .mk (h.feed.droopNoted noted) h.life h.hold
  | kept | strapRead => exact h
  | bay | bayTwice => exact h.of_eq (by simp) (by simp) (by simp)
  | passEnds channel c => exact TimersInv.leaveStrapPass (s := v.withConfig c) h

theorem TimersInv.clampLimit {s : State} (h : TimersInv s) : TimersInv s.clampLimit := by
  unfold State.clampLimit
  split_ifs
  · exact .mk (by simpa using h.feed) (by simpa using h.life) (by rw [State.putCommit_commit]; trivial)
  · exact h

theorem TimersInv.alarmRose {s : State} (h : TimersInv s) :
    TimersInv ({ s with pins.almHigh := true, feed := s.feed.rise } : State).checkOnRise := by
  rw [checkOnRise_eq]
  refine .mk h.feed.rise h.life ?_
  dsimp only
  rw [checkOnRise_hold]
  split_ifs
  exacts [Timer.within_start _, h.hold]

theorem TimersInv.effect {s u : State} {c : Instr} (h : TimersInv s) (effect : Effect s c u) : TimersInv u := by
  have closed := timersInv_closed
  have accepted (own : Bool) : TimersInv (afterAccept own s) := h
  obtain ⟨drive, rearm, low, quiet⟩ := h.feed
  obtain ⟨census, heartbeat, spacing, isolation, leave, mute⟩ := h.life
  cases effect with
  | nothing | lineIdle | unheard | vetoedByOthers | vetoedByThis | noBlock | queryAnswered | enLevel | statStep => exact h
  | sampled => exact h.tick
  | recorded input fell r => exact TimersInv.delivered (v := afterCycle fell r s) h.tick (deliver_delivered _ _)
  | muted => exact TimersInv.enterMute (s := afterVeto s) h
  | duplicate => exact (accepted false).enterBarred
  | joinOwn n b => exact (accepted true).enterCensus _ _
  | joinPeer | leavePeer => exact closed.putRowOf (accepted false) _ _
  | demandOwn n b accepts =>
    exact closed.takeDemand ((accepted true).announced b) _ accepts.stage_quiet_le.2
  | demandAdopted n b accepts => exact closed.adopt (accepted true) accepts.stage_quiet_le.2
  | demandPeer n b accepts => exact closed.takeDemand (accepted false) _ accepts.stage_quiet_le.2
  | leaveOwn => exact (closed.putRowOf (accepted true) _ _).endLeaving
  | holdExpired => exact .mk (by simpa using h.feed) (by simpa using h.life) (by rw [State.putCommit_commit]; trivial)
  | enabled => exact TimersInv.hailFromDown (s := { s with pins.en := true }) h
  | disabledCounted => exact TimersInv.enterLeaving (s := { s with pins.en := false }) h
  | disabledHailing => exact TimersInv.enterDown (s := { s with pins.en := false }) h
  | alarmFell =>
    exact stepUp_keeps closed (fun _ h => .mk ⟨h.feed.1, h.feed.2.1, Timer.within_start _, Timer.within_start _⟩ h.life h.hold)
      (TimersInv.clampLimit (s := { s with pins.almHigh := false }) h)
  | alarmRose => exact h.alarmRose
  | driveEnded => exact .mk ⟨trivial, rearm, low, quiet⟩ h.life h.hold
  | rearmed => exact .mk ⟨drive, trivial, low, quiet⟩ h.life h.hold
  | stuck =>
    refine closed.putStage ?_ _
    exact .mk ⟨drive, rearm, trivial, quiet⟩ h.life h.hold
  | quietStep =>
    refine closed.putStage ?_ _
    refine .mk ⟨drive, rearm, low, ?_⟩ h.life h.hold
    unfold quietAfter
    split_ifs
    exacts [Timer.within_start _, trivial]
  | quietOver => exact .mk ⟨drive, rearm, low, trivial⟩ h.life h.hold
  | censusOver | censusIdle => exact .mk h.feed ⟨trivial, heartbeat, spacing, isolation, leave, mute⟩ h.hold
  | heartbeat | heartbeatIdle => exact .mk h.feed ⟨census, trivial, spacing, isolation, leave, mute⟩ h.hold
  | spacing =>
    refine .mk (by simpa using h.feed) ?_ (by simpa using h.hold)
    rw [State.judgeDemand_line_timers]
    exact ⟨census, heartbeat, trivial, isolation, leave, mute⟩
  | isolated =>
    refine TimersInv.enterHailing (s := { s with line.timers.isolation := .idle, line.isolated := true }) (.mk h.feed ?_ h.hold)
    exact ⟨census, heartbeat, spacing, trivial, leave, mute⟩
  | isolationIdle => exact .mk h.feed ⟨census, heartbeat, spacing, trivial, leave, mute⟩ h.hold
  | leaveOver =>
    refine TimersInv.endLeaving (s := { s with line.timers.leave := .idle }) (.mk h.feed ?_ h.hold)
    exact ⟨census, heartbeat, spacing, isolation, trivial, mute⟩
  | leaveIdle => exact .mk h.feed ⟨census, heartbeat, spacing, isolation, trivial, mute⟩ h.hold
  | muteOverEnabled =>
    refine TimersInv.enterHailing (s := { s with line.timers.mute := .idle, line.admitted := false }) (.mk h.feed ?_ h.hold)
    exact ⟨census, heartbeat, spacing, isolation, leave, trivial⟩
  | muteOverDisabled =>
    refine TimersInv.enterDown (s := { s with line.timers.mute := .idle }) (.mk h.feed ?_ h.hold)
    exact ⟨census, heartbeat, spacing, isolation, leave, trivial⟩
  | muteIdle => exact .mk h.feed ⟨census, heartbeat, spacing, isolation, leave, trivial⟩ h.hold
  | silenced | released => exact closed.putRowOf h _ _
  | prechargeOver | chargeOver => exact h.of_eq (by simp) (by simp) (by simp)

/-! ### By the link state (R58 to R75) -/

@[simp] theorem State.clampLimit_line_timers (s : State) : s.clampLimit.line.timers = s.line.timers := by
  unfold State.clampLimit
  split_ifs <;> simp

@[simp] theorem State.stepUp_line_timers (s : State) : s.stepUp.line.timers = s.line.timers := by
  unfold State.stepUp
  split_ifs <;> simp

/-- The timers of station life that a link state has running. -/
def LifeTimers.FitsLink (l : LinkState) (w : LifeTimers) : Prop :=
  match l with
  | .down | .hailing | .barred => w = .allIdle
  | .census => w.census.isRunning = true ∧ w.isolation.isRunning = true ∧ w.leave = .idle ∧ w.mute = .idle
  | .on => w.census = .idle ∧ w.isolation.isRunning = true ∧ w.leave = .idle ∧ w.mute = .idle
  | .leaving => w.leave.isRunning = true ∧ w = { LifeTimers.allIdle with leave := w.leave }
  | .mute => w.mute.isRunning = true ∧ w = { LifeTimers.allIdle with mute := w.mute }

theorem timersByLinkInv_iff (s : State) : TimersByLinkInv s ↔ s.line.timers.FitsLink s.line.link := by
  unfold TimersByLinkInv LifeTimers.FitsLink
  cases s.line.link <;> rfl

theorem TimersByLinkInv.mk {s : State} {l : LinkState} (fits : s.line.timers.FitsLink l) (link : s.line.link = l) : TimersByLinkInv s := by
  rw [timersByLinkInv_iff, link]
  exact fits

theorem TimersByLinkInv.fits {s : State} (h : TimersByLinkInv s) {l : LinkState} (link : s.line.link = l) : s.line.timers.FitsLink l := by
  rw [timersByLinkInv_iff, link] at h
  exact h

theorem TimersByLinkInv.of_eq {s t : State} (h : TimersByLinkInv s) (link : t.line.link = s.line.link)
    (timers : t.line.timers = s.line.timers) : TimersByLinkInv t := .mk (by rw [timers]; exact h.fits rfl) link

theorem LifeTimers.FitsLink.tick {l : LinkState} {w : LifeTimers} (h : w.FitsLink l) :
    ({ census := w.census.tick, heartbeat := w.heartbeat.tick, spacing := w.spacing.tick, isolation := w.isolation.tick
       leave := w.leave.tick, mute := w.mute.tick } : LifeTimers).FitsLink l := by
  have idle : Timer.idle.tick = .idle := rfl
  cases l with
  | down | hailing | barred => cases h; rfl
  | census =>
    obtain ⟨census, isolation, leave, mute⟩ := h
    exact ⟨(Timer.tick_isRunning _).trans census, (Timer.tick_isRunning _).trans isolation, by simp [leave, idle], by simp [mute, idle]⟩
  | on =>
    obtain ⟨census, isolation, leave, mute⟩ := h
    exact ⟨by simp [census, idle], (Timer.tick_isRunning _).trans isolation, by simp [leave, idle], by simp [mute, idle]⟩
  | leaving =>
    obtain ⟨leave, others⟩ := h
    rw [others]
    exact ⟨(Timer.tick_isRunning _).trans leave, rfl⟩
  | mute =>
    obtain ⟨mute, others⟩ := h
    rw [others]
    exact ⟨(Timer.tick_isRunning _).trans mute, rfl⟩

namespace TimersByLinkInv

variable {s : State}

theorem enterBarred (s : State) : TimersByLinkInv s.enterBarred := .mk (l := .barred) (by simp [State.enterBarred, LifeTimers.FitsLink]) (by simp)

theorem enterMute (s : State) : TimersByLinkInv s.enterMute := by
  refine .mk (l := .mute) ?_ (by simp)
  simp only [State.enterMute, State.zeroCommit_line_timers]
  exact ⟨rfl, rfl⟩

theorem enterHailing (s : State) : TimersByLinkInv s.enterHailing :=
  .mk (l := .hailing) (by simp [State.enterHailing, LifeTimers.FitsLink]) (by simp)

/-- On entry to DOWN the leave timer alone is cancelled, for no other runs where DOWN is entered from (R71 to R73). -/
theorem enterDown (others : { s.line.timers with leave := .idle } = LifeTimers.allIdle) : TimersByLinkInv s.enterDown :=
  .mk (l := .down) (by simpa [State.enterDown, LifeTimers.FitsLink] using others) (by simp)

theorem endLeaving (others : { s.line.timers with leave := .idle } = LifeTimers.allIdle) : TimersByLinkInv s.endLeaving := by
  unfold State.endLeaving
  dsimp only
  split_ifs
  exacts [enterHailing _, enterDown others]

theorem leaveStrapPass (h : TimersByLinkInv s) : TimersByLinkInv s.leaveStrapPass := by
  unfold State.leaveStrapPass
  split_ifs
  exacts [enterBarred _, enterHailing _, h]

theorem delivered {v u : State} {r : Reading} (h : TimersByLinkInv v) (delivered : Delivered v r u) : TimersByLinkInv u := by
  cases delivered with
  | watched | kept | strapRead => exact h
  | bay | bayTwice => exact h.of_eq (by simp) (by simp)
  | passEnds channel c => exact leaveStrapPass (s := v.withConfig c) h

/-- LEAVING is entered from CENSUS and ON, where the mute timer is idle (R71). -/
theorem enterLeaving (mute : s.line.timers.mute = .idle) : TimersByLinkInv s.enterLeaving := by
  refine .mk (l := .leaving) ?_ (by simp)
  simp only [State.enterLeaving, State.zeroCommit_line_timers, mute]
  exact ⟨rfl, rfl⟩

theorem mute_idle_of_counted (h : TimersByLinkInv s) (counted : LinkState.counted s.line.link = true) :
    s.line.timers.leave = .idle ∧ s.line.timers.mute = .idle := by
  rcases (counted_iff _).1 counted with link | link
  · exact (h.fits link).2.2
  · exact (h.fits link).2.2

/-- The census, heartbeat, spacing and isolation timers run in CENSUS and ON alone (R58). -/
theorem counted_of_due (h : TimersByLinkInv s)
    (due : s.line.timers.census = .running 0 ∨ s.line.timers.heartbeat = .running 0 ∨ s.line.timers.spacing = .running 0 ∨
      s.line.timers.isolation = .running 0) : LinkState.counted s.line.link = true := by
  cases link : s.line.link with
  | census | on => rfl
  | down | hailing | barred =>
    have idle : s.line.timers = .allIdle := h.fits link
    simp [idle, LifeTimers.allIdle] at due
  | leaving | mute =>
    have others := (h.fits link).2
    rw [others] at due
    simp [LifeTimers.allIdle] at due

/-- The leave timer runs in LEAVING alone (R71). -/
theorem leaving_of_due (h : TimersByLinkInv s) (due : s.line.timers.leave = .running 0) : s.line.link = .leaving := by
  cases link : s.line.link with
  | leaving => rfl
  | census | on =>
    obtain ⟨-, -, leave, -⟩ := h.fits link
    rw [leave] at due; cases due
  | down | hailing | barred =>
    have idle : s.line.timers = .allIdle := h.fits link
    rw [idle] at due; cases due
  | mute =>
    have others := (h.fits link).2
    rw [others] at due; cases due

/-- The mute timer runs in MUTE alone (R73). -/
theorem mute_of_due (h : TimersByLinkInv s) (due : s.line.timers.mute = .running 0) : s.line.link = .mute := by
  cases link : s.line.link with
  | mute => rfl
  | census | on =>
    obtain ⟨-, -, -, mute⟩ := h.fits link
    rw [mute] at due; cases due
  | down | hailing | barred =>
    have idle : s.line.timers = .allIdle := h.fits link
    rw [idle] at due; cases due
  | leaving =>
    have others := (h.fits link).2
    rw [others] at due; cases due

/-- In CENSUS and ON the heartbeat and the spacing timer may run or not. -/
theorem of_counted {t : State} (h : TimersByLinkInv s) (counted : LinkState.counted s.line.link = true) (link : t.line.link = s.line.link)
    (census : t.line.timers.census = s.line.timers.census)
    (isolation : s.line.timers.isolation.isRunning = true → t.line.timers.isolation.isRunning = true)
    (leave : t.line.timers.leave = s.line.timers.leave) (mute : t.line.timers.mute = s.line.timers.mute) : TimersByLinkInv t := by
  rcases (counted_iff _).1 counted with inCensus | inOn
  · obtain ⟨first, isolates, noLeave, noMute⟩ := h.fits inCensus
    exact .mk (l := .census) ⟨census ▸ first, isolation isolates, leave.trans noLeave, mute.trans noMute⟩ (link.trans inCensus)
  · obtain ⟨first, isolates, noLeave, noMute⟩ := h.fits inOn
    exact .mk (l := .on) ⟨census ▸ first, isolation isolates, leave.trans noLeave, mute.trans noMute⟩ (link.trans inOn)

theorem enterCensus {n : Nat} {b : JoinBody} (h : TimersByLinkInv s) (link : s.line.link = .hailing) :
    TimersByLinkInv (s.enterCensus n b) := by
  have idle : s.line.timers = .allIdle := h.fits link
  refine .mk (l := .census) ?_ (by simp [State.enterCensus])
  simp only [State.enterCensus, State.putRowOf_line_timers, idle]
  exact ⟨rfl, rfl, rfl, rfl⟩

theorem enterOn (h : TimersByLinkInv s) (link : s.line.link = .census) :
    TimersByLinkInv (({ s with line.timers.census := .idle, line.link := .on } : State).requestDemand true) := by
  obtain ⟨-, isolation, leave, mute⟩ := h.fits link
  exact .mk (l := .on) ⟨rfl, isolation, leave, mute⟩ rfl

theorem effect {s u : State} {c : Instr} (h : TimersByLinkInv s) (effect : Effect s c u) : TimersByLinkInv u := by
  have same {t : State} (link : t.line.link = s.line.link) (timers : t.line.timers = s.line.timers) : TimersByLinkInv t := h.of_eq link timers
  cases effect with
  | nothing | lineIdle | unheard | vetoedByOthers | vetoedByThis | noBlock | queryAnswered | enLevel | driveEnded | rearmed | quietOver
  | statStep => exact h
  | sampled => exact .mk (h.fits rfl).tick rfl
  | recorded input fell r =>
    have ticked : TimersByLinkInv (afterCycle fell r s) := .mk (h.fits rfl).tick rfl
    exact ticked.delivered (deliver_delivered _ _)
  | muted => exact enterMute _
  | duplicate => exact enterBarred _
  | joinOwn n b accepts own station link => exact enterCensus (s := afterAccept true s) h link
  | joinPeer | leavePeer | demandAdopted | demandPeer | holdExpired | alarmFell | stuck | quietStep | silenced | released
  | prechargeOver | chargeOver =>
    exact same (by simp [afterAccept]) (by simp [afterAccept])
  | demandOwn n b accepts own station link =>
    exact h.of_counted link (by simp [State.announced, afterAccept]) (by simp [State.announced, afterAccept])
      (fun _ => by simp [State.announced, Timer.start, Timer.isRunning]) (by simp [State.announced, afterAccept])
      (by simp [State.announced, afterAccept])
  | leaveOwn n b accepts own link =>
    refine endLeaving ?_
    rw [State.putRowOf_line_timers]
    exact congrArg (fun w => { w with leave := .idle }) (h.fits link).2
  | enabled | muteOverEnabled | isolated => exact enterHailing _
  | disabledCounted link => exact enterLeaving (s := { s with pins.en := false }) (h.mute_idle_of_counted link).2
  | disabledHailing link =>
    exact enterDown (s := { s with pins.en := false }) (congrArg (fun w => { w with leave := .idle }) (h.fits link))
  | alarmRose => rw [checkOnRise_eq]; exact h
  | censusOver due link => exact h.enterOn link
  | leaveOver due link =>
    exact endLeaving (s := { s with line.timers.leave := .idle }) (congrArg (fun w => { w with leave := .idle }) (h.fits link).2)
  | muteOverDisabled due link =>
    refine enterDown (s := { s with line.timers.mute := .idle }) ?_
    exact congrArg (fun w => { w with mute := .idle, leave := .idle }) (h.fits link).2
  | heartbeat due | heartbeatIdle due => exact h.of_counted (h.counted_of_due (.inr (.inl due))) rfl rfl id rfl rfl
  | spacing due =>
    exact h.of_counted (h.counted_of_due (.inr (.inr (.inl due)))) (by simp) (by simp) (fun isolates => by simpa using isolates) (by simp)
      (by simp)
  | censusIdle due link =>
    have counted := h.counted_of_due (.inl due)
    have on := ((counted_iff _).1 counted).resolve_left link
    rw [(h.fits on).1] at due
    cases due
  | isolationIdle due link =>
    rw [h.counted_of_due (.inr (.inr (.inr due)))] at link
    cases link
  | leaveIdle due link => exact absurd (h.leaving_of_due due) link
  | muteIdle due link => exact absurd (h.mute_of_due due) link

end TimersByLinkInv

/-- Settles O14: every start is a start with the full setting, and each link state's entry cancels what may not run there. -/
theorem timersInvKept : Obligations.TimersInvKept := fun _ _ run =>
  ⟨fun h => step_keeps (fun _ _ h => h) (fun _ _ _ _ => .mk ⟨trivial, trivial, trivial, trivial⟩ LifeTimers.allIdle_within trivial)
      (fun _ _ _ h effect => (h.effect effect).of_eq (by simp) (by simp) (by simp)) h run,
    fun h => step_keeps (fun _ _ h => h) (fun _ _ _ _ => .mk (l := .down) rfl rfl)
      (fun _ _ _ h effect => (h.effect effect).of_eq (by simp) (by simp)) h run⟩

end Sys2Proof.Machine
end

section
/-! PROOFS. The bay controller under every command, the rate of its credits, the limits of its regulator, and the obligations on them. -/

namespace Sys2Proof.Machine

set_option Elab.async false

/-! ### The limits of the regulator (R56, R132, R135) -/

theorem bayLimit_of_charging {b : BayController} {p : ChargePhase} (phase : b.phase = .charging p) (c : ConfigRecord) (limit : Nat) :
    bayLimit c limit b = capped c b.foldback (min limit (phaseCurrent c b.phase)) := by
  unfold bayLimit
  rw [phase]

theorem bayLimit_le (c : ConfigRecord) (limit : Nat) (b : BayController) : bayLimit c limit b ≤ min limit (phaseCurrent c b.phase) := by
  cases phase : b.phase with
  | charging p =>
    rw [bayLimit_of_charging phase, ← phase]
    exact capped_le _ _ _
  | vacant | qualify | done | hold | fault =>
    unfold bayLimit
    rw [phase]
    exact Nat.zero_le _

theorem gate_iff (s : State) : s.gate = true ↔ ∃ p, s.bay.phase = .charging p := by
  unfold State.gate
  cases s.bay.phase <;> simp

theorem bayLimit_of_gate_off {s : State} (off : s.gate = false) : bayLimit s.cfg s.commit.limit s.bay = 0 := by
  have notCharging : ∀ p, s.bay.phase ≠ .charging p := fun p charging => by
    rw [(gate_iff s).2 ⟨p, charging⟩] at off
    cases off
  unfold bayLimit
  split
  next p charging => exact absurd charging (notCharging p)
  all_goals rfl

theorem regulation_eq (c : ConfigRecord) : c.regulation = if c.sc.toNat < 16 then 4200 else 4350 := by
  unfold ConfigRecord.regulation profileOf
  split_ifs <;> omega

/-- Settles O21: the limit of a charging phase is read off its definition, and it is 0 in every other phase. -/
theorem safeDrawAlways : Obligations.SafeDrawAlways := by
  intro s
  have off (gate : s.gate = false) : s.regulatedMilliamps = 0 := by
    rw [State.regulatedMilliamps, bayLimit_of_gate_off gate]
  have below : s.regulatedMilliamps ≤ 25 * s.commit.limit := Nat.mul_le_mul_left 25 ((bayLimit_le _ _ _).trans (min_le_left _ _))
  refine ⟨⟨below, off⟩, ?_, fun gate => ?_, off, regulation_eq _⟩
  · rw [gate_iff]
    cases s.bay.phase with
    | charging p => cases p <;> simp [Phase.name]
    | vacant | qualify | done | hold | fault => simp [Phase.name]
  · obtain ⟨p, charging⟩ := (gate_iff s).1 gate
    have current : phaseCurrent s.cfg s.bay.phase = if s.bay.phase.name = .precharge then s.cfg.prechargeCurrent else s.cfg.fast := by
      rw [charging]
      cases p <;> rfl
    rw [State.regulatedMilliamps, bayLimit_of_charging charging, ← current]
    exact ⟨fun clear => by rw [capped, clear]; rfl, fun set => by rw [capped, set]; rfl⟩

/-! ### The rate of a credit (R141) -/

theorem phaseCurrent_pos (c : ConfigRecord) (p : ChargePhase) : 0 < phaseCurrent c (.charging p) := by
  cases p with
  | precharge => exact lt_of_lt_of_le Nat.zero_lt_two (le_max_right _ _)
  | fast | taper => exact Nat.mul_pos (by decide) (Nat.succ_pos _)

theorem creditRate_of_current {b : BayController} {p : ChargePhase} (phase : b.phase = .charging p) (notTaper : p ≠ .taper) (c : ConfigRecord)
    (limit : Nat) : creditRate c limit b = max ((bayLimit c limit b : Rat) / (phaseCurrent c b.phase : Rat)) (1 / 2) := by
  unfold creditRate
  cases p with
  | precharge | fast => rw [phase]
  | taper => exact absurd rfl notTaper

theorem creditRate_of_taper {b : BayController} (phase : b.phase = .charging .taper) (c : ConfigRecord) (limit : Nat) :
    creditRate c limit b =
      if bayThrottled c limit b then max ((bayLimit c limit b : Rat) / (b.localDemand : Rat)) (1 / 2) else 1 := by
  unfold creditRate
  rw [phase]

theorem bayThrottled_iff {b : BayController} {p : ChargePhase} (phase : b.phase = .charging p) (c : ConfigRecord) (limit : Nat) :
    bayThrottled c limit b = true ↔ bayLimit c limit b < b.localDemand := by
  unfold bayThrottled
  rw [phase]
  exact decide_eq_true_iff

/-- A quotient of at most 1, held at 1/2 from below. -/
theorem quotient_bounds {a b : Nat} (pos : 0 < b) (le : a ≤ b) : 1 / 2 ≤ max ((a : Rat) / b) (1 / 2) ∧ max ((a : Rat) / b) (1 / 2) ≤ 1 := by
  refine ⟨le_max_right _ _, max_le ?_ (by norm_num)⟩
  rw [div_le_one (by exact_mod_cast pos)]
  exact_mod_cast le

theorem creditRate_bounds {b : BayController} {p : ChargePhase} (phase : b.phase = .charging p) (c : ConfigRecord) (limit : Nat) :
    1 / 2 ≤ creditRate c limit b ∧ creditRate c limit b ≤ 1 := by
  by_cases taper : p = .taper
  · rw [taper] at phase
    rw [creditRate_of_taper phase]
    split_ifs with throttled
    · have below := (bayThrottled_iff phase c limit).1 throttled
      exact quotient_bounds (Nat.zero_lt_of_lt below) below.le
    · norm_num
  · rw [creditRate_of_current phase taper]
    exact quotient_bounds (by rw [phase]; exact phaseCurrent_pos c p) ((bayLimit_le c limit b).trans (min_le_right _ _))

theorem creditRate_nonneg (c : ConfigRecord) (limit : Nat) (b : BayController) : 0 ≤ creditRate c limit b := by
  cases phase : b.phase with
  | charging p => exact le_trans (by norm_num) (creditRate_bounds phase c limit).1
  | vacant | qualify | done | hold | fault =>
    unfold creditRate
    rw [phase]

/-- Settles O31: the quotient's two currents are both taken in units, and in mA both 25 times as large. -/
theorem creditRates : Obligations.CreditRates := by
  intro s _ p phase limit rate
  have inMilliamps (d : Nat) : limit / (25 * (d : Rat)) = (bayLimit s.cfg s.commit.limit s.bay : Rat) / d :=
    mul_div_mul_left _ _ (by norm_num)
  obtain ⟨low, high⟩ := creditRate_bounds phase s.cfg s.commit.limit
  refine ⟨low, high, fun notTaper => ?_, fun taper free => ?_, fun taper throttled => ?_⟩
  · rw [inMilliamps]
    exact creditRate_of_current phase notTaper _ _
  · rw [taper] at phase
    exact (creditRate_of_taper phase _ _).trans (if_neg (Bool.eq_false_iff.1 free))
  · rw [taper] at phase
    rw [inMilliamps]
    exact (creditRate_of_taper phase _ _).trans (if_pos throttled)

/-! ### The bay's invariant under the commands (R131, R133, R140) -/

/-- A gain at a rate of 0 or more keeps a credit between 0 and its setting (R141, R142). -/
theorem Credit.gain_bounds {setting rate : Rat} {c : Credit} (settingNonneg : 0 ≤ setting) (rateNonneg : 0 ≤ rate) (low : 0 ≤ c.seconds)
    (high : c.seconds ≤ setting) : 0 ≤ (c.gain setting rate).seconds ∧ (c.gain setting rate).seconds ≤ setting := by
  unfold Credit.gain
  split_ifs
  · have gained : 0 ≤ rate * conversionSeconds := mul_nonneg rateNonneg (by norm_num [conversionSeconds])
    exact ⟨le_min settingNonneg (add_nonneg low gained), min_le_left _ _⟩
  · exact ⟨low, high⟩

theorem Credit.gain_run (setting rate : Rat) (c : Credit) : (c.gain setting rate).run = c.run := by
  unfold Credit.gain
  split_ifs <;> rfl

theorem BayInv.tick {s : State} (h : BayInv s) : BayInv s.tick := by
  obtain ⟨demand, charging, hold, term, taper, preLow, preHigh, chargeLow, chargeHigh, runs⟩ := h
  have rate := creditRate_nonneg s.cfg s.commit.limit s.bay
  obtain ⟨settingPre, settingCharge⟩ := zero_le_settings
  obtain ⟨preLow', preHigh'⟩ := Credit.gain_bounds settingPre rate preLow preHigh
  obtain ⟨chargeLow', chargeHigh'⟩ := Credit.gain_bounds settingCharge rate chargeLow chargeHigh
  refine ⟨demand.trans (phaseDemand_congr _ rfl rfl rfl), charging, hold, term, taper, preLow', preHigh', chargeLow', chargeHigh', ?_⟩
  simpa only [State.tick, Credit.gain_run] using runs

theorem bayInv_closed : RecomputeClosed BayInv :=
  ⟨fun _ _ h => h, fun _ _ h => h, fun _ _ _ h => h, fun _ _ h => h, fun _ before h => recompute_bayInv h before⟩

section Entry

variable {s : State} (h : BayInv s)

include h

theorem BayInv.enterHailing : BayInv s.enterHailing := putCommit_bayInv (by exact h) _
theorem BayInv.enterDown : BayInv s.enterDown := putCommit_bayInv (by exact h) _
theorem BayInv.enterLeaving : BayInv s.enterLeaving := putCommit_bayInv (by exact h) _
theorem BayInv.enterMute : BayInv s.enterMute := putCommit_bayInv (by exact h) _
theorem BayInv.enterBarred : BayInv s.enterBarred := putCommit_bayInv (by exact h) _
theorem BayInv.hailFromDown : BayInv s.hailFromDown := putCommit_bayInv (by exact h) _

theorem BayInv.endLeaving : BayInv s.endLeaving := by
  unfold State.endLeaving
  dsimp only
  split_ifs
  exacts [h.enterDown.hailFromDown, h.enterDown]

theorem BayInv.leaveStrapPass : BayInv s.leaveStrapPass := by
  unfold State.leaveStrapPass
  split_ifs
  exacts [h.enterBarred, h.hailFromDown, h]

end Entry

/-- A delivered record keeps the bay in its invariant; the end of the strap pass, which alone writes the configuration, comes before the bay
leaves its power-on values (R154). -/
theorem BayInv.delivered {s u : State} {input : Int} {fell : Bool} {r : Reading} (h : BayInv s) (pass : StrapPassInv s)
    (ends : CycleEnds s input r) (delivered : Delivered (afterCycle fell r s) r u) : BayInv u := by
  have before : BayInv (afterCycle fell r s) := h.tick
  cases delivered with
  | watched | kept | strapRead => exact before
  | bay b running sound => exact putBay_bayInv (sound before.sound) _
  | bayTwice b b' running sound => exact putBay_bayInv (sound before.sound) _
  | passEnds channel c =>
    have atEnd : s.scan.pos = .s3 := (channel_eq_strapc_iff _).1 (ends.channel_eq.symm.trans channel)
    exact (pass.bayInv_withConfig (by rw [atEnd]; rfl) fell r c).leaveStrapPass

theorem BayInv.effect {s u : State} {c : Instr} (h : BayInv s) (pass : StrapPassInv s) (effect : Effect s c u) : BayInv u := by
  have closed := bayInv_closed
  have accepted (own : Bool) : BayInv (afterAccept own s) := h
  cases effect with
  | nothing | lineIdle | unheard | vetoedByOthers | vetoedByThis | noBlock | queryAnswered | enLevel | driveEnded | rearmed | quietOver
  | censusOver | censusIdle | heartbeat | heartbeatIdle | isolationIdle | leaveIdle | muteIdle | statStep => exact h
  | sampled => exact h.tick
  | recorded input fell r ends => exact h.delivered pass ends (deliver_delivered _ _)
  | muted => exact BayInv.enterMute (s := afterVeto s) h
  | duplicate => exact (accepted false).enterBarred
  | joinOwn => exact closed.putRowOf (by exact h) _ _
  | joinPeer | leavePeer => exact closed.putRowOf (accepted false) _ _
  | demandOwn n b accepts => exact closed.takeDemand (s := (afterAccept true s).announced b) h _ accepts.stage_quiet_le.2
  | demandAdopted n b accepts => exact closed.adopt (accepted true) accepts.stage_quiet_le.2
  | demandPeer n b accepts => exact closed.takeDemand (accepted false) _ accepts.stage_quiet_le.2
  | leaveOwn => exact (closed.putRowOf (accepted true) _ _).endLeaving
  | holdExpired => exact putCommit_bayInv h _
  | enabled => exact BayInv.hailFromDown (s := { s with pins.en := true }) h
  | disabledCounted => exact BayInv.enterLeaving (s := { s with pins.en := false }) h
  | disabledHailing => exact BayInv.enterDown (s := { s with pins.en := false }) h
  | alarmFell => exact stepUp_keeps closed (fun _ h => h) (clampLimit_bayInv (by exact h))
  | alarmRose => rw [checkOnRise_eq]; exact h
  | stuck | quietStep => exact closed.putStage (by exact h) _
  | spacing => exact h.congr (by simp [State.cfg]) (by simp) (by simp)
  | isolated => exact BayInv.enterHailing (s := { s with line.timers.isolation := .idle, line.isolated := true }) h
  | leaveOver => exact BayInv.endLeaving (s := { s with line.timers.leave := .idle }) h
  | muteOverEnabled => exact BayInv.enterHailing (s := { s with line.timers.mute := .idle, line.admitted := false }) h
  | muteOverDisabled => exact BayInv.enterDown (s := { s with line.timers.mute := .idle }) h
  | silenced | released => exact closed.putRowOf h _ _
  | prechargeOver => exact putBay_bayInv (prechargeTimeout_sound h.sound) _
  | chargeOver => exact putBay_bayInv (chargeTimeout_sound h.sound _) _

/-- Settles O13: every write of the bay goes through `putBay`, which has HOLD follow L and works the local demand out again. -/
theorem bayInvKept : Obligations.BayInvKept := fun _ _ pass h run =>
  step_keeps_under (Q := StrapPassInv) (fun _ _ h => h) (fun _ _ h => h) (fun _ _ _ _ => .of_atPowerOn rfl)
    (fun _ _ _ pass h effect => (h.effect pass effect).congr (by simp [State.cfg]) (by simp) (by simp)) pass h run

end Sys2Proof.Machine
end

section
/-! PROOFS. STAT, the strap pass and the link state: what every command keeps of them, and the obligations on them. -/

namespace Sys2Proof.Machine

set_option Elab.async false

/-! ### STAT (R156, R157) -/

/-- STAT stands at an interval of its pattern, with no more left than that lasts; off and steady have none. -/
def StatOutput.Shown (o : StatOutput) : Prop :=
  match patternIntervals o.pattern with
  | [] => o.position = 0 ∧ o.left = .idle
  | d :: ds => ∃ e, (d :: ds)[o.position]? = some e ∧ o.left.isRunning = true ∧ o.left.within e

theorem statInv_iff (s : State) :
    StatInv s ↔ s.stat.pattern = patternFor s.line.link s.bay.phase s.throttled ∧ s.stat.Shown := by
  unfold StatInv StatOutput.Shown
  cases patternIntervals s.stat.pattern <;> rfl

theorem statAt_shown {p : Pattern} {k : Nat} (inside : k < (patternIntervals p).length) : (statAt p k).Shown := by
  have get := List.getElem?_eq_getElem inside
  have left : (statAt p k).left = .start (patternIntervals p)[k] := by simp only [statAt, get]
  unfold StatOutput.Shown
  split
  next none => rw [show patternIntervals p = [] from none] at inside; cases inside
  next d ds some =>
    rw [left]
    refine ⟨_, ?_, rfl, Timer.within_start _⟩
    rw [← some]
    exact get

theorem statAt_zero_shown (p : Pattern) : (statAt p 0).Shown := by
  cases p with
  | off | steady => exact ⟨rfl, rfl⟩
  | blink1 | blink4 | twoPulses | threePulses => exact statAt_shown (by decide)

theorem StatOutput.Shown.advance {o : StatOutput} (h : o.Shown) : o.advance.Shown := by
  unfold StatOutput.advance
  split
  next => exact h
  next d ds intervals =>
    refine statAt_shown ?_
    rw [intervals]
    exact Nat.mod_lt _ (Nat.succ_pos _)

theorem StatOutput.Shown.tick {o : StatOutput} (h : o.Shown) : ({ o with left := o.left.tick } : StatOutput).Shown := by
  unfold StatOutput.Shown at *
  dsimp only
  split at h
  next => exact ⟨h.1, by rw [h.2]; rfl⟩
  next =>
    obtain ⟨e, get, running, within⟩ := h
    exact ⟨e, get, (Timer.tick_isRunning _).trans running, Timer.within_tick within⟩

@[simp] theorem State.clampLimit_stat (s : State) : s.clampLimit.stat = s.stat := by
  unfold State.clampLimit
  split_ifs <;> simp

@[simp] theorem State.stepUp_stat (s : State) : s.stepUp.stat = s.stat := by
  unfold State.stepUp
  split_ifs <;> simp

@[simp] theorem State.checkOnRise_stat (s : State) : s.checkOnRise.stat = s.stat := by rw [checkOnRise_eq]

@[simp] theorem State.leaveStrapPass_stat (s : State) : s.leaveStrapPass.stat = s.stat := by
  unfold State.leaveStrapPass
  split_ifs <;> simp

theorem delivered_stat {v u : State} {r : Reading} (delivered : Delivered v r u) : u.stat = v.stat := by
  cases delivered with
  | watched | kept | strapRead => rfl
  | bay | bayTwice => simp
  | passEnds => exact State.leaveStrapPass_stat _

/-- A command's own effects leave STAT as it is but for its own step and the passing of time. -/
theorem Effect.stat_shown {s u : State} {c : Instr} (h : s.stat.Shown) (effect : Effect s c u) : u.stat.Shown := by
  cases effect with
  | sampled => exact h.tick
  | recorded input fell r =>
    rw [delivered_stat (deliver_delivered r (afterCycle fell r s))]
    exact h.tick
  | statStep => exact h.advance
  | nothing | lineIdle | unheard | vetoedByOthers | vetoedByThis | noBlock | queryAnswered | enLevel | driveEnded | rearmed | quietOver
  | censusOver | censusIdle | heartbeat | heartbeatIdle | isolationIdle | leaveIdle | muteIdle => exact h
  | muted | duplicate | joinOwn | joinPeer | demandOwn | demandAdopted | demandPeer | leaveOwn | leavePeer | holdExpired | enabled
  | disabledCounted | disabledHailing | alarmFell | alarmRose | stuck | quietStep | spacing | isolated | leaveOver | muteOverEnabled
  | muteOverDisabled | silenced | released | prechargeOver | chargeOver =>
    simpa [afterVeto, afterAccept, State.enterCensus, State.announced] using h

theorem selectPattern_stat (s : State) :
    s.selectPattern.stat =
      if patternFor s.line.link s.bay.phase s.throttled = s.stat.pattern then s.stat
      else statAt (patternFor s.line.link s.bay.phase s.throttled) 0 := by
  unfold State.selectPattern
  dsimp only
  split_ifs <;> rfl

theorem settle_statInv {u : State} (shown : u.stat.Shown) : StatInv u.settle := by
  have chosen : patternFor u.settle.line.link u.settle.bay.phase u.settle.throttled =
      patternFor u.beginFrame.line.link u.beginFrame.bay.phase u.beginFrame.throttled := by
    simp [State.settle, State.throttled, State.cfg]
  rw [statInv_iff, chosen, State.settle, selectPattern_stat]
  split_ifs with same
  · exact ⟨same.symm, by simpa using shown⟩
  · exact ⟨rfl, statAt_zero_shown _⟩

/-- Settles O17: the end of every step chooses the pattern afresh. -/
theorem statInvKept : Obligations.StatInvKept := fun _ _ h run =>
  step_keeps (fun _ _ h => h) (fun _ _ _ _ => ⟨rfl, rfl, rfl⟩)
    (fun s _ _ h effect => settle_statInv (effect.stat_shown ((statInv_iff s).1 h).2)) h run

/-! ### Configuration and scan position (R120, R152, R154) -/

@[simp] theorem State.clampLimit_config (s : State) : s.clampLimit.config = s.config := by
  unfold State.clampLimit
  split_ifs <;> simp

@[simp] theorem State.stepUp_config (s : State) : s.stepUp.config = s.config := by
  unfold State.stepUp
  split_ifs <;> simp

@[simp] theorem State.clampLimit_scan (s : State) : s.clampLimit.scan = s.scan := by
  unfold State.clampLimit
  split_ifs <;> simp

@[simp] theorem State.stepUp_scan (s : State) : s.stepUp.scan = s.scan := by
  unfold State.stepUp
  split_ifs <;> simp

/-- A delivered record outside the strap pass leaves configuration and scan as they are. -/
theorem delivered_config {v u : State} {r : Reading} (delivered : Delivered v r u) (channel : r.channel ≠ .strapc) :
    u.config = v.config ∧ u.scan = v.scan := by
  cases delivered with
  | watched | kept | strapRead => exact ⟨rfl, rfl⟩
  | bay | bayTwice => exact ⟨by simp, by simp⟩
  | passEnds atEnd => exact absurd atEnd channel

/-- No command but a conversion that ends its cycle writes the configuration or moves the scan to another position. -/
theorem Effect.config_pos {s u : State} {c : Instr} (effect : Effect s c u) :
    (u.config = s.config ∧ u.scan.pos = s.scan.pos) ∨
      ∃ input fell r, c = .conversion ⟨input, fell⟩ ∧ CycleEnds s input r ∧ Delivered (afterCycle fell r s) r u := by
  cases effect with
  | recorded input fell r ends => exact .inr ⟨input, fell, r, rfl, ends, deliver_delivered _ _⟩
  | nothing | sampled | lineIdle | unheard | vetoedByOthers | vetoedByThis | noBlock | queryAnswered | enLevel | driveEnded | rearmed
  | quietOver | censusOver | censusIdle | heartbeat | heartbeatIdle | isolationIdle | leaveIdle | muteIdle | statStep =>
    exact .inl ⟨rfl, rfl⟩
  | alarmRose => rw [checkOnRise_eq]; exact .inl ⟨rfl, rfl⟩
  | muted | duplicate | joinOwn | joinPeer | demandOwn | demandAdopted | demandPeer | leaveOwn | leavePeer | holdExpired | enabled
  | disabledCounted | disabledHailing | alarmFell | stuck | quietStep | spacing | isolated | leaveOver | muteOverEnabled
  | muteOverDisabled | silenced | released | prechargeOver | chargeOver =>
    left
    simp [afterVeto, afterAccept, State.enterCensus, State.announced]

theorem CycleEnds.pos_eq_s3 {s : State} {input : Int} {r : Reading} (ends : CycleEnds s input r) (channel : r.channel = .strapc) :
    s.scan.pos = .s3 := (channel_eq_strapc_iff _).1 (ends.channel_eq.symm.trans channel)

@[simp] theorem State.leaveStrapPass_config (s : State) : s.leaveStrapPass.config = s.config := by
  unfold State.leaveStrapPass
  split_ifs <;> simp

@[simp] theorem State.leaveStrapPass_scan (s : State) : s.leaveStrapPass.scan = s.scan := by
  unfold State.leaveStrapPass
  split_ifs <;> simp

theorem delivered_pos {s u : State} {fell : Bool} {r : Reading} (delivered : Delivered (afterCycle fell r s) r u) :
    u.scan.pos = s.scan.pos.next := by
  cases delivered with
  | watched | kept | strapRead => rfl
  | bay | bayTwice => simp [afterCycle]
  | passEnds => simp [afterCycle, State.withConfig]

/-- What no command's own effects touch: power, fuses, tag and the waiting commands (R152; log 4). -/
def SamePart (s u : State) : Prop := u.power = s.power ∧ u.fuses = s.fuses ∧ u.tag = s.tag ∧ u.pending = s.pending

theorem SamePart.trans {s u v : State} (h : SamePart s u) (h' : SamePart u v) : SamePart s v := by
  obtain ⟨power, fuses, tag, pending⟩ := h
  obtain ⟨power', fuses', tag', pending'⟩ := h'
  exact ⟨power'.trans power, fuses'.trans fuses, tag'.trans tag, pending'.trans pending⟩

theorem clampLimit_samePart (s : State) : SamePart s s.clampLimit := by
  unfold State.clampLimit SamePart
  split_ifs <;> simp

theorem stepUp_samePart (s : State) : SamePart s s.stepUp := by
  unfold State.stepUp SamePart
  split_ifs <;> simp

theorem delivered_samePart {v u : State} {r : Reading} (delivered : Delivered v r u) : SamePart v u := by
  cases delivered with
  | watched | kept | strapRead => exact ⟨rfl, rfl, rfl, rfl⟩
  | bay | bayTwice => simp [SamePart]
  | passEnds _ c =>
    unfold State.leaveStrapPass SamePart
    split_ifs <;> simp [State.withConfig]

theorem Effect.samePart {s u : State} {c : Instr} (effect : Effect s c u) : SamePart s u := by
  cases effect with
  | recorded input fell r =>
    have passed : SamePart s (afterCycle fell r s) := ⟨rfl, rfl, rfl, rfl⟩
    exact passed.trans (delivered_samePart (deliver_delivered _ _))
  | nothing | sampled | lineIdle | unheard | vetoedByOthers | vetoedByThis | noBlock | queryAnswered | enLevel | driveEnded | rearmed
  | quietOver | censusOver | censusIdle | heartbeat | heartbeatIdle | isolationIdle | leaveIdle | muteIdle | statStep =>
    exact ⟨rfl, rfl, rfl, rfl⟩
  | alarmFell =>
    have lowered : SamePart s { s with pins.almHigh := false } := ⟨rfl, rfl, rfl, rfl⟩
    exact (lowered.trans (clampLimit_samePart _)).trans (stepUp_samePart _)
  | alarmRose => rw [checkOnRise_eq]; exact ⟨rfl, rfl, rfl, rfl⟩
  | muted | duplicate | joinOwn | joinPeer | demandOwn | demandAdopted | demandPeer | leaveOwn | leavePeer | holdExpired | enabled
  | disabledCounted | disabledHailing | stuck | quietStep | spacing | isolated | leaveOver | muteOverEnabled
  | muteOverDisabled | silenced | released | prechargeOver | chargeOver =>
    simp [SamePart, afterVeto, afterAccept, State.enterCensus, State.announced]

theorem settle_samePart (u : State) : SamePart u u.settle := by simp [SamePart]

/-- Settles O2: every command answers, and by a way that writes none of these fields. -/
theorem everyCommandCompletes : Obligations.EveryCommandCompletes := by
  intro c s
  obtain ⟨t, answer, stepped⟩ := exec_stepped c s
  refine ⟨t, answer, ?_⟩
  cases stepped with
  | powerOn => exact ⟨rfl, rfl, fun other => absurd rfl other.1⟩
  | supplyMonitorReset => exact ⟨rfl, rfl, fun other => absurd rfl other.2⟩
  | stood => exact ⟨rfl, rfl, fun _ => ⟨rfl, rfl, fun _ => rfl⟩⟩
  | @effect _ u effect =>
    obtain ⟨power, fuses, tag, pending⟩ := effect.samePart.trans (settle_samePart u)
    refine ⟨pending, fuses, fun _ => ⟨tag, power, fun running => ?_⟩⟩
    rw [State.settle_config]
    rcases effect.config_pos with same | ⟨input, fell, r, -, ends, delivered⟩
    · exact same.1
    · exact (delivered_config delivered fun atEnd => running (ends.pos_eq_s3 atEnd)).1

/-! ### The strap pass (R58, R99, R120, R125) -/

theorem atPowerOn_powerOnValues (power : Power) (tag : Tag) (s : State) : AtPowerOn (s.powerOnValues power tag) :=
  ⟨rfl, rfl, rfl, rfl, rfl, rfl, rfl, rfl, rfl⟩

theorem strapPassInv_powerOnValues (power : Power) (tag : Tag) (s : State) : StrapPassInv (s.powerOnValues power tag) :=
  ⟨fun _ => atPowerOn_powerOnValues power tag s, nofun⟩

/-- The end of a step has nothing to do at the power-on values: no frame is offered without a station number, and STAT stays off. -/
theorem AtPowerOn.settle {u : State} (h : AtPowerOn u) : u.settle = u := by
  obtain ⟨config, -, -, line, -, commit, bay, stat, -⟩ := h
  have number : u.ownNumber = none := by rw [State.ownNumber, config]; rfl
  have off : patternFor u.line.link u.bay.phase u.throttled = u.stat.pattern := by rw [line, bay, stat]; rfl
  rw [State.settle, beginFrame_none (.inl number)]
  exact if_pos off

/-- No timer runs at the power-on values, so time passes without a change. -/
theorem AtPowerOn.tick {s : State} (h : AtPowerOn s) : s.tick = s := by
  obtain ⟨power, fuses, tag, pins, wire, straps, config, scan, store, feed, line, table, commit, bay, stat, choices, pending⟩ := s
  obtain ⟨rfl, -, rfl, rfl, rfl, rfl, rfl, rfl, -⟩ := h
  rfl

theorem AtPowerOn.takesLine {s : State} (h : AtPowerOn s) : s.takesLine = false := by
  obtain ⟨-, -, -, line, -⟩ := h
  rw [State.takesLine, line]
  rfl

theorem AtPowerOn.not_takesAlarm {s : State} (h : AtPowerOn s) : ¬LinkState.takesAlarm s.line.link = true := by
  obtain ⟨-, -, -, line, -⟩ := h
  rw [line]
  decide

theorem AtPowerOn.alarmFell {s : State} (h : AtPowerOn s) : s.clampLimit.stepUp = s := by
  obtain ⟨-, -, feed, -⟩ := id h
  rw [clampLimit_of_not_takesAlarm h.not_takesAlarm, stepUp_of_not_tracking (congrArg FeedWatch.tracking feed)]

theorem AtPowerOn.checkOnRise {s : State} (h : AtPowerOn s) : s.checkOnRise = s := if_neg h.not_takesAlarm

/-- Through the strap pass no command but a conversion has an effect on the blocks (R58, R59, R154). -/
theorem AtPowerOn.effect {s u : State} {c : Instr} (h : AtPowerOn s) (effect : Effect s c u) :
    (AtPowerOn u ∧ u.scan.pos = s.scan.pos) ∨ ∃ input fell r, CycleEnds s input r ∧ Delivered (afterCycle fell r s) r u := by
  have deaf {p : Prop} (takes : s.takesLine = true) : p := by rw [h.takesLine] at takes; cases takes
  have ticked : AtPowerOn s.tick := by rw [h.tick]; exact h
  have h' := h
  obtain ⟨config, tx, feed, line, table, commit, bay, stat, overvoltage⟩ := h
  have down : s.line.link = .down := by rw [line]; rfl
  cases effect with
  | recorded input fell r ends => exact .inr ⟨input, fell, r, ends, deliver_delivered _ _⟩
  | nothing => exact .inl ⟨h', rfl⟩
  | sampled => exact .inl ⟨ticked, rfl⟩
  | enLevel => exact .inl ⟨h', rfl⟩
  | lineIdle =>
    refine .inl ⟨⟨config, rfl, feed, ?_, table, commit, bay, stat, overvoltage⟩, rfl⟩
    rw [State.seeIdle, line]
    rfl
  | unheard => exact .inl ⟨⟨config, rfl, feed, line, table, commit, bay, stat, overvoltage⟩, rfl⟩
  | vetoedByOthers _ takes | vetoedByThis _ takes | muted _ takes | noBlock _ _ takes | queryAnswered _ _ _ takes => exact deaf takes
  | duplicate _ _ _ accepts | joinOwn _ _ accepts | joinPeer _ _ accepts | demandOwn _ _ accepts | demandAdopted _ _ accepts
  | demandPeer _ _ accepts | leaveOwn _ _ accepts | leavePeer _ _ accepts => exact deaf accepts.1
  | holdExpired due => rw [commit] at due; cases due
  | enabled _ loaded => rw [config] at loaded; cases loaded
  | disabledCounted link => rw [down] at link; cases link
  | disabledHailing link => rw [down] at link; cases link
  | alarmFell =>
    have low : AtPowerOn { s with pins.almHigh := false } := h'
    rw [low.alarmFell]
    exact .inl ⟨low, rfl⟩
  | alarmRose =>
    have high : AtPowerOn { s with pins.almHigh := true, feed := s.feed.rise } := by
      rw [FeedWatch.rise_of_not_tracking (congrArg FeedWatch.tracking feed)]
      exact h'
    rw [high.checkOnRise]
    exact .inl ⟨high, rfl⟩
  | driveEnded due | stuck due | quietStep due | quietOver due => rw [feed] at due; cases due
  | rearmed due => rw [feed] at due; rcases due with due | due <;> cases due
  | censusOver due | censusIdle due | heartbeat due | heartbeatIdle due | spacing due | isolated due | isolationIdle due | leaveOver due
  | leaveIdle due | muteOverEnabled due | muteOverDisabled due | muteIdle due => rw [line] at due; cases due
  | silenced _ _ row | released _ _ _ row => rw [table] at row; cases row
  | prechargeOver running | chargeOver running => rw [bay] at running; cases running
  | statStep due => rw [stat] at due; cases due

/-- The delivery of a strap's record keeps the power-on values up to the end of the pass (R121). -/
theorem AtPowerOn.delivered {s u : State} {fell : Bool} {r : Reading} (h : AtPowerOn s) (channel : r.channel = s.scan.pos.channel)
    (inPass : s.scan.pos.inStrapPass = true) (delivered : Delivered (afterCycle fell r s) r u) :
    (AtPowerOn u ∧ s.scan.pos ≠ .s3) ∨ (u.config.isSome = true ∧ s.scan.pos = .s3) := by
  have ticked : AtPowerOn s.tick := by rw [h.tick]; exact h
  rw [inStrapPass_eq, ← channel] at inPass
  have notRunning {p : Prop} (running : Channel.ofStrap r.channel = false) : p := by rw [inPass] at running; cases running
  cases delivered with
  | watched _ running | kept running | bay _ running | bayTwice _ _ running => exact notRunning running
  | strapRead d strap =>
    refine .inl ⟨by exact ticked, fun atEnd => ?_⟩
    rw [channel, atEnd] at strap
    simp [ScanPos.channel] at strap
  | passEnds strapc => exact .inr ⟨by simp [State.withConfig], (channel_eq_strapc_iff _).1 (channel.symm.trans strapc)⟩

theorem next_inStrapPass (p : ScanPos) : p.next.inStrapPass = true ↔ p.inStrapPass = true ∧ p ≠ .s3 := by
  cases p <;> simp [ScanPos.next, ScanPos.inStrapPass]

theorem StrapPassInv.effect {s u : State} {c : Instr} (h : StrapPassInv s) (effect : Effect s c u) : StrapPassInv u.settle := by
  obtain ⟨inPass, running⟩ := h
  cases pass : s.scan.pos.inStrapPass with
  | true =>
    rcases (inPass pass).effect effect with ⟨still, pos⟩ | ⟨input, fell, r, ends, delivered⟩
    · rw [still.settle]
      exact ⟨fun _ => still, fun out => by rw [pos, pass] at out; cases out⟩
    · have pos := delivered_pos delivered
      rcases (inPass pass).delivered ends.channel_eq pass delivered with ⟨still, notEnd⟩ | ⟨loaded, atEnd⟩
      · rw [still.settle]
        exact ⟨fun _ => still, fun out => by rw [pos, (next_inStrapPass _).2 ⟨pass, notEnd⟩] at out; cases out⟩
      · refine ⟨fun still => ?_, fun _ => by rw [State.settle_config]; exact loaded⟩
        rw [State.settle_scan, pos, atEnd] at still
        cases still
  | false =>
    have goesOn : u.scan.pos.inStrapPass = false ∧ u.config = s.config := by
      rcases effect.config_pos with ⟨config, pos⟩ | ⟨input, fell, r, -, ends, delivered⟩
      · exact ⟨pos ▸ pass, config⟩
      · have notEnd : r.channel ≠ .strapc := fun atEnd => by rw [ends.pos_eq_s3 atEnd] at pass; cases pass
        refine ⟨?_, (delivered_config delivered notEnd).1⟩
        rw [delivered_pos delivered, Bool.eq_false_iff, Ne, next_inStrapPass, pass]
        exact fun still => Bool.false_ne_true still.1
    obtain ⟨out, config⟩ := goesOn
    refine ⟨fun still => ?_, fun _ => by rw [State.settle_config, config]; exact running pass⟩
    rw [State.settle_scan, out] at still
    cases still

/-! ### The table in DOWN, MUTE and BARRED (R4, R21) -/

/-- No table is kept in this link state. -/
def LinkState.tableless (l : LinkState) : Prop := l = .down ∨ l = .mute ∨ l = .barred

theorem EmptyTableInv.of_table {s : State} (table : s.table = []) : EmptyTableInv s := fun _ => table

theorem EmptyTableInv.of_link {s : State} (link : ¬LinkState.tableless s.line.link) : EmptyTableInv s := fun tableless => absurd tableless link

theorem EmptyTableInv.of_eq {s t : State} (h : EmptyTableInv s) (table : t.table = s.table) (link : t.line.link = s.line.link) :
    EmptyTableInv t := fun tableless => table.trans (h (link ▸ tableless))

theorem not_tableless_of_takesLine {s : State} (takes : s.takesLine = true) : ¬LinkState.tableless s.line.link := by
  rintro (link | link | link) <;> rw [State.takesLine, link] at takes <;> cases takes

/-- A recompute of an empty table has no row to write. -/
theorem EmptyTableInv.putStage {s : State} (h : EmptyTableInv s) (k : Nat) : EmptyTableInv (s.putStage k) := by
  intro tableless
  rw [State.putStage_line_link] at tableless
  have empty := h tableless
  unfold State.putStage
  split_ifs
  · exact empty
  · rw [State.recompute_table]
    dsimp only
    rw [empty]
    rfl

theorem EmptyTableInv.endLeaving (s : State) : EmptyTableInv s.endLeaving := by
  unfold State.endLeaving
  dsimp only
  split_ifs <;> exact .of_table (by simp [State.hailFromDown])

theorem EmptyTableInv.delivered {v u : State} {r : Reading} (h : EmptyTableInv v) (delivered : Delivered v r u) : EmptyTableInv u := by
  cases delivered with
  | watched | kept | strapRead => exact h
  | bay | bayTwice => exact h.of_eq (by simp) (by simp)
  | passEnds channel c =>
    unfold State.leaveStrapPass
    split_ifs
    exacts [.of_table (by simp), .of_table (by simp [State.hailFromDown]), h]

theorem EmptyTableInv.stepUp {s : State} (h : EmptyTableInv s) : EmptyTableInv s.stepUp := by
  unfold State.stepUp
  split_ifs
  exacts [EmptyTableInv.putStage (by exact h) _, h]

theorem EmptyTableInv.effect {s u : State} {c : Instr} (h : EmptyTableInv s) (effect : Effect s c u) : EmptyTableInv u := by
  have heard {t : State} (takes : s.takesLine = true) (link : t.line.link = s.line.link) : EmptyTableInv t :=
    .of_link (link ▸ not_tableless_of_takesLine takes)
  cases effect with
  | nothing | lineIdle | unheard | vetoedByOthers | vetoedByThis | noBlock | queryAnswered | enLevel | driveEnded | rearmed | quietOver
  | censusIdle | heartbeat | heartbeatIdle | isolationIdle | leaveIdle | muteIdle | statStep => exact h
  | sampled => exact fun tableless => by rw [show (afterSample _ _ s).table = s.table.map ageRow from rfl, h tableless]; rfl
  | recorded input fell r =>
    refine EmptyTableInv.delivered (v := afterCycle fell r s) (fun tableless => ?_) (deliver_delivered _ _)
    rw [show (afterCycle fell r s).table = s.table.map ageRow from rfl, h tableless]
    rfl
  | muted | duplicate | disabledHailing | muteOverDisabled | isolated => exact .of_table (by simp)
  | enabled | muteOverEnabled => exact .of_table (by simp [State.hailFromDown, State.hailFromMute])
  | leaveOwn | leaveOver => exact .endLeaving _
  | joinOwn => exact .of_link (by simp [State.enterCensus, LinkState.tableless])
  | disabledCounted => exact .of_link (by simp [LinkState.tableless])
  | censusOver => exact .of_link (by simp [LinkState.tableless])
  | joinPeer _ _ accepts | demandAdopted _ _ accepts | demandPeer _ _ accepts | leavePeer _ _ accepts =>
    exact heard accepts.1 (by simp [afterAccept])
  | demandOwn _ _ accepts => exact heard accepts.1 (by simp [afterAccept, State.announced])
  | holdExpired | spacing | prechargeOver | chargeOver => exact h.of_eq (by simp) (by simp)
  | alarmFell =>
    refine EmptyTableInv.stepUp (EmptyTableInv.of_eq (s := s) h ?_ ?_)
    exacts [State.clampLimit_table _, State.clampLimit_line_link _]
  | alarmRose => rw [checkOnRise_eq]; exact h
  | stuck | quietStep => exact EmptyTableInv.putStage (by exact h) _
  | silenced n r row | released _ n r row =>
    refine .of_link fun tableless => ?_
    rw [State.putRowOf_line_link] at tableless
    rw [h tableless] at row
    cases row

/-- Settles O18: through the pass nothing but the scan moves; afterwards the record stays loaded, and each entry of DOWN, MUTE and BARRED
clears the table, which no frame reaches there. -/
theorem strapPassKept : Obligations.StrapPassKept := fun _ _ pass empty run =>
  ⟨step_keeps (fun _ _ h => h) (fun _ power tag _ => strapPassInv_powerOnValues power tag _) (fun _ _ _ h effect => h.effect effect) pass run,
    step_keeps (fun _ _ h => h) (fun _ _ _ _ => .of_table rfl)
      (fun _ _ _ h effect => (h.effect effect).of_eq (by simp) (by simp)) empty run⟩

end Sys2Proof.Machine
end

section
/-! PROOFS. The changes of the link state, the power-on values, and what holds right after reset; the obligations on them. -/

namespace Sys2Proof.Machine

set_option Elab.async false

/-! ### Power-on and reset (R58, R120) -/

/-- Settles O29: both commands answer the power-on values, POWER_ON with the tag of the fuses. -/
theorem powerOnValues : Obligations.PowerOnValues := by
  rintro c s (rfl | rfl)
  · exact ⟨_, rfl, atPowerOn_powerOnValues _ _ s, rfl, rfl, rfl, fun _ => ⟨rfl, rfl⟩, nofun, rfl, rfl, rfl, rfl, rfl⟩
  · exact ⟨_, rfl, atPowerOn_powerOnValues _ _ s, rfl, rfl, rfl, nofun, fun _ => rfl, rfl, rfl, rfl, rfl, rfl⟩

/-- Settles O8: reset stands before the strap pass, with no frame, row, demand or timer. -/
theorem invariantsAtReset : Obligations.InvariantsAtReset := by
  have powerOn : AtPowerOn State.reset := ⟨rfl, rfl, rfl, rfl, rfl, rfl, rfl, rfl, rfl⟩
  have watched : Watched State.reset := .powerOn rfl rfl
  have number : OwnNumberInv State.reset := ⟨fun _ => nofun, fun _ => nofun⟩
  have queue : QueueInv State.reset :=
    ⟨fun other => absurd rfl other, fun other => absurd rfl other, fun other => absurd rfl other, fun other => absurd rfl other, Nat.zero_le _,
      nofun, by decide, nofun⟩
  have scan : ScanInv State.reset := ⟨by decide, fun _ => rfl, fun taken => absurd taken (by decide), fun channel _ => by cases channel <;> nofun⟩
  exact ⟨⟨.nil, nofun⟩, watched.1, watched.2, .of_zero rfl, nofun, number, .of_atPowerOn rfl,
    .mk ⟨trivial, trivial, trivial, trivial⟩ LifeTimers.allIdle_within trivial, .mk (l := .down) rfl rfl, queue, scan, ⟨rfl, rfl, rfl⟩,
    .of_table rfl, ⟨fun _ => powerOn, nofun⟩, powerOn⟩

/-! ### The link state (R59, R63 to R77) -/

theorem endLeaving_link (s : State) : s.endLeaving.line.link = if s.pins.en = true then .hailing else .down := by
  have same : s.enterDown.pins = s.pins := by simp
  unfold State.endLeaving
  dsimp only
  rw [same]
  split_ifs <;> simp

/-- A delivered record moves the link state at the end of the strap pass alone (R59). -/
theorem delivered_link {v u : State} {r : Reading} (delivered : Delivered v r u) (moved : u.line.link ≠ v.line.link) :
    r.channel = .strapc ∧
      ((u.line.link = .barred ∧ u.ownNumber = none) ∨ (u.line.link = .hailing ∧ u.ownNumber ≠ none ∧ v.pins.en = true)) := by
  cases delivered with
  | watched | kept | strapRead => exact absurd rfl moved
  | bay | bayTwice => exact absurd (by simp) moved
  | passEnds channel c =>
    refine ⟨channel, ?_⟩
    have number : (v.withConfig c).leaveStrapPass.ownNumber = (v.withConfig c).ownNumber := by simp [State.ownNumber]
    rw [number]
    unfold State.leaveStrapPass at moved ⊢
    split_ifs at moved ⊢ with invalid en
    · exact .inl ⟨by simp, invalid⟩
    · exact .inr ⟨by simp, invalid, en⟩
    · exact absurd rfl moved

/-- Settles O19: the link state is moved by the entries of the link states alone, each reached under its own conditions. -/
theorem linkTransitions : Obligations.LinkTransitions := by
  intro c s t pass run moved ownAccepted strapsRead left muteOver
  cases stepped_of_exec run with
  | powerOn => exact .inl rfl
  | supplyMonitorReset => exact .inr (.inl rfl)
  | stood => exact absurd rfl moved
  | @effect _ u effect =>
    have number : u.settle.ownNumber = u.ownNumber := by simp [State.ownNumber]
    rw [State.settle_line_link] at moved ⊢
    rw [number, State.settle_line_isolated]
    have stays {p : Prop} (same : u.line.link = s.line.link) : p := absurd same moved
    have leftTo (is : left) (link : u.line.link = if s.pins.en = true then .hailing else .down) :
        (u.line.link = .hailing ∧ left ∧ s.pins.en = true) ∨ (u.line.link = .down ∧ left ∧ s.pins.en = false) := by
      split_ifs at link with en
      exacts [.inl ⟨link, is, en⟩, .inr ⟨link, is, Bool.eq_false_iff.2 en⟩]
    cases effect with
    | nothing | sampled | lineIdle | unheard | vetoedByOthers | vetoedByThis | noBlock | queryAnswered | enLevel | driveEnded | rearmed
    | quietOver | censusIdle | heartbeat | heartbeatIdle | isolationIdle | leaveIdle | muteIdle | statStep => exact stays rfl
    | alarmRose => exact stays (by rw [checkOnRise_eq])
    | joinPeer | demandAdopted | demandPeer | demandOwn | leavePeer | holdExpired | alarmFell | stuck | quietStep | spacing | silenced | released
    | prechargeOver | chargeOver => exact stays (by simp [afterAccept, State.announced])
    | recorded input fell r ends =>
      obtain ⟨strapc, outcome⟩ := delivered_link (deliver_delivered r (afterCycle fell r s)) moved
      have atEnd := ends.pos_eq_s3 strapc
      have down : s.line.link = .down := by
        obtain ⟨-, -, -, line, -⟩ := pass.1 (by rw [atEnd]; rfl)
        rw [line]
        rfl
      have read : strapsRead := ⟨down, atEnd, _, r, rfl, ends⟩
      rcases outcome with ⟨link, none⟩ | ⟨link, some, en⟩
      · rw [link]; exact .inl ⟨read, none⟩
      · rw [link]; exact .inr (.inl ⟨read, some, en⟩)
    | muted _ takes vetoes reached =>
      rw [State.enterMute_line_link]
      exact ⟨takes, by simp only [vetoRunLimit] at reached; omega, vetoes⟩
    | duplicate _ f frame accepts foreign own =>
      rw [State.enterBarred_line_link]
      exact .inr ⟨f, frame, accepts, own, foreign⟩
    | joinOwn n b accepts own station link =>
      rw [show ((afterAccept true s).enterCensus n.toNat b).line.link = .census by simp [State.enterCensus]]
      exact ⟨link, n, b, rfl, accepts, own⟩
    | leaveOwn n b accepts own link =>
      rcases leftTo ⟨link, .inr ⟨n, b, rfl, accepts, own⟩⟩ (by rw [endLeaving_link]; simp [afterAccept]) with ⟨reached, is, en⟩ | ⟨reached, is, en⟩
      · rw [reached]; exact .inr (.inr (.inr (.inl ⟨is, en⟩)))
      · rw [reached]; exact .inr (.inr (.inr (.inl ⟨is, en⟩)))
    | leaveOver due link =>
      rcases leftTo ⟨link, .inl ⟨rfl, due⟩⟩ (by rw [endLeaving_link]) with ⟨reached, is, en⟩ | ⟨reached, is, en⟩
      · rw [reached]; exact .inr (.inr (.inr (.inl ⟨is, en⟩)))
      · rw [reached]; exact .inr (.inr (.inr (.inl ⟨is, en⟩)))
    | enabled down loaded =>
      rw [State.hailFromDown_line_link]
      exact .inl ⟨rfl, down, loaded⟩
    | disabledCounted link =>
      rw [State.enterLeaving_line_link]
      exact ⟨(counted_iff _).1 link, rfl⟩
    | disabledHailing link =>
      rw [State.enterDown_line_link]
      exact .inr (.inr (.inl ⟨rfl, link⟩))
    | censusOver due link => exact ⟨link, rfl, due⟩
    | isolated due link =>
      rw [State.enterHailing_line_link, State.enterHailing_line_isolated]
      exact .inr (.inr (.inl ⟨rfl, due, (counted_iff _).1 link, rfl⟩))
    | muteOverEnabled due link en =>
      rw [State.hailFromMute_line_link]
      exact .inr (.inr (.inr (.inr ⟨⟨link, rfl, due⟩, en⟩)))
    | muteOverDisabled due link en =>
      rw [State.enterDown_line_link]
      exact .inr (.inr (.inr (.inr ⟨⟨link, rfl, due⟩, en⟩)))

end Sys2Proof.Machine
end

section
/-! PROOFS. The transmit queue, the veto run and the admission under every command, and the obligation on them. -/

namespace Sys2Proof.Machine

set_option Elab.async false

/-! ### The slots that a link state may hold (R60, R62) -/

/-- A slot is filled only in the link state that may fill it, and at most four REPORTs are. -/
def TxQueue.FitsLink (l : LinkState) (q : TxQueue) : Prop :=
  (q.join ≠ .empty → l = .hailing) ∧ (q.leave ≠ .empty → l = .leaving) ∧ (q.demand ≠ .empty → LinkState.counted l = true) ∧
    (q.reports ≠ [] → LinkState.counted l = true) ∧ q.reports.length ≤ reportSlots

/-- A JOIN on the line is in its slot. -/
def JoinOnLine (s : State) : Prop :=
  s.takesLine = true → ∀ f, s.wire.tx = some f → isJoinFrame f = true → s.line.queue.join = .onLine

/-- The station is admitted where it has joined (R83). -/
def Admitted (s : State) : Prop := s.line.link = .census ∨ s.line.link = .on ∨ s.line.link = .leaving → s.line.admitted = true

theorem queueInv_iff (s : State) :
    QueueInv s ↔ s.line.queue.FitsLink s.line.link ∧ JoinOnLine s ∧ s.line.vetoRun < vetoRunLimit ∧ Admitted s := by
  unfold QueueInv TxQueue.FitsLink JoinOnLine Admitted
  tauto

theorem QueueInv.mk {s : State} (fits : s.line.queue.FitsLink s.line.link) (join : JoinOnLine s) (vetoes : s.line.vetoRun < vetoRunLimit)
    (admitted : Admitted s) : QueueInv s := (queueInv_iff s).2 ⟨fits, join, vetoes, admitted⟩

theorem zero_lt_vetoRunLimit : 0 < vetoRunLimit := by decide

theorem TxQueue.FitsLink.empty (l : LinkState) : TxQueue.empty.FitsLink l :=
  ⟨fun filled => absurd rfl filled, fun filled => absurd rfl filled, fun filled => absurd rfl filled, fun filled => absurd rfl filled,
    Nat.zero_le _⟩

theorem Slot.requeue_eq_empty_iff (x : Slot) : x.requeue = .empty ↔ x = .empty := by cases x <;> simp [Slot.requeue]

theorem DemandSlot.requeue_eq_empty_iff (x : DemandSlot) : x.requeue = .empty ↔ x = .empty := by cases x <;> simp [DemandSlot.requeue]

theorem Slot.complete_empty {x : Slot} (h : x = .empty) : x.complete = .empty := by rw [h]; rfl

theorem DemandSlot.complete_empty {x : DemandSlot} (h : x = .empty) : x.complete = .empty := by rw [h]; rfl

namespace TxQueue.FitsLink

variable {l : LinkState} {q : TxQueue}

theorem requeue (h : q.FitsLink l) : q.requeue.FitsLink l := by
  obtain ⟨join, leave, demand, reports, four⟩ := h
  exact ⟨fun filled => join (mt (Slot.requeue_eq_empty_iff _).2 filled), fun filled => leave (mt (Slot.requeue_eq_empty_iff _).2 filled),
    fun filled => demand (mt (DemandSlot.requeue_eq_empty_iff _).2 filled), reports, four⟩

theorem complete (h : q.FitsLink l) : q.complete.FitsLink l := by
  obtain ⟨join, leave, demand, reports, four⟩ := h
  refine ⟨fun filled => join (mt Slot.complete_empty filled), fun filled => leave (mt Slot.complete_empty filled),
    fun filled => demand (mt DemandSlot.complete_empty filled), fun filled => reports fun none => filled ?_, ?_⟩
  · simp [TxQueue.complete, none]
  · have shorter : q.complete.reports.length ≤ q.reports.length := by
      unfold TxQueue.complete
      dsimp only
      split_ifs
      exacts [by rw [List.length_tail]; exact Nat.sub_le _ _, le_rfl]
    exact shorter.trans four

theorem request (h : q.FitsLink l) (counted : LinkState.counted l = true) (fromCensus : Bool) :
    ({ q with demand := q.demand.request fromCensus } : TxQueue).FitsLink l := by
  obtain ⟨join, leave, -, reports, four⟩ := h
  exact ⟨join, leave, fun _ => counted, reports, four⟩

theorem join_empty (h : q.FitsLink l) (link : l ≠ .hailing) : q.join = .empty := by_contra fun filled => link (h.1 filled)

theorem leave_empty (h : q.FitsLink l) (link : l ≠ .leaving) : q.leave = .empty := by_contra fun filled => link (h.2.1 filled)

theorem demand_reports_empty (h : q.FitsLink l) (uncounted : LinkState.counted l = false) : q.demand = .empty ∧ q.reports = [] := by
  obtain ⟨-, -, demand, reports, -⟩ := h
  rw [uncounted] at demand reports
  exact ⟨by_contra fun filled => Bool.false_ne_true (demand filled), by_contra fun filled => Bool.false_ne_true (reports filled)⟩

end TxQueue.FitsLink

theorem JoinOnLine.of_none {s : State} (none : s.wire.tx = none) : JoinOnLine s := fun _ _ some => by rw [none] at some; cases some

theorem JoinOnLine.of_deaf {s : State} (deaf : s.takesLine = false) : JoinOnLine s := fun takes => by rw [deaf] at takes; cases takes

theorem takesLine_of_counted {s : State} (counted : LinkState.counted s.line.link = true) : s.takesLine = true := by
  rcases (counted_iff _).1 counted with link | link <;> rw [State.takesLine, link]

/-- In CENSUS and ON no JOIN of this station is on the line, for its slot is empty there. -/
theorem QueueInv.no_join {s : State} (h : QueueInv s) (counted : LinkState.counted s.line.link = true) {f : Frame}
    (sent : s.wire.tx = some f) : isJoinFrame f = false := by
  obtain ⟨fits, join, -, -⟩ := (queueInv_iff s).1 h
  refine Bool.eq_false_iff.2 fun isJoin => ?_
  have onLine := join (takesLine_of_counted counted) f sent isJoin
  have empty := fits.join_empty fun link => by rw [link] at counted; cases counted
  rw [empty] at onLine
  cases onLine

/-! ### The queue under the operations -/

namespace QueueInv

variable {s : State} (h : QueueInv s)

include h

theorem of_eq {t : State} (line : t.line = s.line) (wire : t.wire = s.wire) : QueueInv t := by
  unfold QueueInv State.takesLine at *
  rwa [line, wire]

theorem requestDemand (counted : LinkState.counted s.line.link = true) (fromCensus : Bool) : QueueInv (s.requestDemand fromCensus) := by
  obtain ⟨fits, join, vetoes, admitted⟩ := (queueInv_iff s).1 h
  exact .mk (fits.request counted fromCensus) join vetoes admitted

theorem judgeDemand : QueueInv s.judgeDemand := by
  unfold State.judgeDemand
  split_ifs with due
  exacts [h.requestDemand ((counted_iff _).2 (.inr due.1)) _, h]

theorem putBay (b : BayController) : QueueInv (s.putBay b) := by
  unfold State.putBay
  dsimp only
  split_ifs
  exacts [h, QueueInv.judgeDemand (by exact h)]

theorem putCommit (c : CommitUnit) : QueueInv (s.putCommit c) := by
  unfold State.putCommit
  dsimp only
  split_ifs
  exacts [h, QueueInv.putBay (by exact h) _]

theorem clampLimit : QueueInv s.clampLimit := by
  unfold State.clampLimit
  split_ifs
  exacts [h.putCommit _, h]

end QueueInv

theorem queueInv_closed : RecomputeClosed QueueInv :=
  ⟨fun _ _ h => h, fun _ _ h => h, fun _ _ _ h => h, fun _ _ h => h, fun _ _ h => QueueInv.putCommit (by exact h) _⟩

namespace QueueInv

variable {s : State}

theorem enterMute (s : State) : QueueInv s.enterMute := by
  refine putCommit ?_ _
  exact .mk (.empty _) (.of_deaf rfl) zero_lt_vetoRunLimit nofun

theorem enterBarred (s : State) : QueueInv s.enterBarred := by
  refine putCommit ?_ _
  exact .mk (.empty _) (.of_deaf rfl) zero_lt_vetoRunLimit nofun

/-- HAILING keeps whatever LEAVE the queue holds, and JOIN on the line: there is neither where it is entered from. -/
theorem enterHailing (leave : s.line.queue.leave = .empty) (vetoes : s.line.vetoRun < vetoRunLimit)
    (join : s.line.admitted = true → ∀ f, s.wire.tx = some f → isJoinFrame f = false) : QueueInv s.enterHailing := by
  refine putCommit ?_ _
  refine .mk ⟨fun _ => rfl, fun filled => absurd leave filled, fun filled => absurd rfl filled, fun filled => absurd rfl filled, Nat.zero_le _⟩
    (fun takes f sent isJoin => ?_) vetoes nofun
  rw [join takes f sent] at isJoin
  cases isJoin

theorem hailFromDown (leave : s.line.queue.leave = .empty) (vetoes : s.line.vetoRun < vetoRunLimit) : QueueInv s.hailFromDown :=
  enterHailing (s := { s with line.admitted := false, feed := s.feed.beginTracking s.pins.almHigh }) leave vetoes nofun

/-- DOWN keeps whatever DEMAND and REPORTs the queue holds: there are none where it is entered from. -/
theorem enterDown (h : QueueInv s) (uncounted : LinkState.counted s.line.link = false) : QueueInv s.enterDown := by
  obtain ⟨fits, -⟩ := (queueInv_iff s).1 h
  obtain ⟨demand, reports⟩ := fits.demand_reports_empty uncounted
  refine putCommit ?_ _
  refine .mk ⟨fun filled => absurd rfl filled, fun filled => absurd rfl filled, fun filled => absurd demand filled,
    fun filled => absurd reports filled, ?_⟩ (.of_deaf rfl) zero_lt_vetoRunLimit nofun
  dsimp only
  rw [reports]
  exact Nat.zero_le _

theorem endLeaving (h : QueueInv s) (link : s.line.link = .leaving) : QueueInv s.endLeaving := by
  have down := h.enterDown (by rw [link]; rfl)
  obtain ⟨fits, -, vetoes, -⟩ := (queueInv_iff _).1 down
  unfold State.endLeaving
  dsimp only
  split_ifs
  exacts [hailFromDown (fits.leave_empty (by simp)) vetoes, down]

theorem enterLeaving (h : QueueInv s) (counted : LinkState.counted s.line.link = true) : QueueInv s.enterLeaving := by
  obtain ⟨fits, -, vetoes, admitted⟩ := (queueInv_iff s).1 h
  have join := fits.join_empty fun link => by rw [link] at counted; cases counted
  refine putCommit ?_ _
  refine .mk ⟨fun filled => absurd join filled, fun _ => rfl, fun filled => absurd rfl filled, fun filled => absurd rfl filled, Nat.zero_le _⟩
    (fun _ f sent isJoin => ?_) vetoes fun _ => admitted (((counted_iff _).1 counted).imp_right .inl)
  rw [h.no_join counted sent] at isJoin
  cases isJoin

theorem afterAccept (h : QueueInv s) (own : Bool) : QueueInv (afterAccept own s) := by
  obtain ⟨fits, -, -, admitted⟩ := (queueInv_iff s).1 h
  refine .mk ?_ (.of_none rfl) zero_lt_vetoRunLimit admitted
  cases own with
  | true => exact fits.complete
  | false => exact fits.requeue

theorem afterVeto (h : QueueInv s) : QueueInv (afterVeto s) := by
  obtain ⟨fits, -, vetoes, admitted⟩ := (queueInv_iff s).1 h
  exact .mk fits.requeue (.of_none rfl) vetoes admitted

/-- The accepted own JOIN leaves its slot empty, for it was on the line (R60, R65). -/
theorem enterCensus (h : QueueInv s) {n : Sender} {b : JoinBody} (takes : s.takesLine = true) (own : IsOwn s ⟨n, .join b⟩)
    (link : s.line.link = .hailing) : QueueInv ((Sys2Proof.Machine.afterAccept true s).enterCensus n.toNat b) := by
  obtain ⟨fits, -, vetoes, -⟩ := (queueInv_iff _).1 (h.afterAccept true)
  obtain ⟨-, join, -, -⟩ := (queueInv_iff s).1 h
  have empty : s.line.queue.complete.join = .empty := congrArg Slot.complete (join takes _ own rfl)
  obtain ⟨-, leave, demand, reports, four⟩ := fits
  have uncounted : LinkState.counted s.line.link = false := by rw [link]; rfl
  have admitted : s.line.admitted = true := by rwa [State.takesLine, link] at takes
  unfold State.enterCensus
  refine queueInv_closed.putRowOf ?_ _ _
  refine .mk ⟨fun filled => absurd empty filled, fun filled => ?_, fun _ => rfl, fun _ => rfl, four⟩ (.of_none rfl) vetoes fun _ => admitted
  have leaving : s.line.link = .leaving := leave filled
  rw [link] at leaving
  cases leaving

theorem enterOn (h : QueueInv s) (link : s.line.link = .census) :
    QueueInv (({ s with line.timers.census := .idle, line.link := .on } : State).requestDemand true) := by
  obtain ⟨fits, join, vetoes, admitted⟩ := (queueInv_iff s).1 h
  have counted : LinkState.counted s.line.link = true := by rw [link]; rfl
  have noJoin := fits.join_empty (by rw [link]; nofun)
  have noLeave := fits.leave_empty (by rw [link]; nofun)
  obtain ⟨-, -, -, -, four⟩ := fits
  refine requestDemand ?_ rfl true
  exact .mk ⟨fun filled => absurd noJoin filled, fun filled => absurd noLeave filled, fun _ => rfl, fun _ => rfl, four⟩
    (fun _ => join (takesLine_of_counted counted)) vetoes fun _ => admitted (.inl link)

/-- The frame that begins at an idle has its slot on the line (R61). -/
theorem beginFrame (h : QueueInv s) : QueueInv s.beginFrame := by
  obtain ⟨fits, -, vetoes, admitted⟩ := (queueInv_iff s).1 h
  obtain ⟨join, leave, demand, reports, four⟩ := fits
  unfold State.beginFrame
  split
  next => exact h
  next n _ =>
    split_ifs
    · unfold State.offer
      dsimp only
      split_ifs with leaves joins demands
      · exact .mk ⟨join, fun _ => leave (by rw [leaves]; nofun), demand, reports, four⟩ (fun _ f sent isJoin => by cases sent; cases isJoin)
          vetoes admitted
      · exact .mk ⟨fun _ => join (by rw [joins]; nofun), leave, demand, reports, four⟩ (fun _ _ _ _ => rfl) vetoes admitted
      · exact .mk ⟨join, leave, fun _ => demand (by rw [demands]; nofun), reports, four⟩ (fun _ f sent isJoin => by cases sent; cases isJoin)
          vetoes admitted
      · split
        next p q offered =>
          split at offered
          next r rs _ =>
            cases offered
            exact .mk ⟨join, leave, demand, reports, four⟩ (fun _ f sent isJoin => by cases sent; cases isJoin) vetoes admitted
          next => cases offered
        next => exact h
    · exact h

theorem settle (h : QueueInv s) : QueueInv s.settle := by
  unfold State.settle State.selectPattern
  dsimp only
  split_ifs
  exacts [h.beginFrame, QueueInv.of_eq h.beginFrame rfl rfl]

/-- The end of the strap pass comes with the queue empty (R58, R154). -/
theorem delivered {input : Int} {fell : Bool} {r : Reading} {u : State} (h : QueueInv s) (pass : StrapPassInv s) (ends : CycleEnds s input r)
    (delivered : Delivered (afterCycle fell r s) r u) : QueueInv u := by
  cases delivered with
  | watched | kept | strapRead => exact h
  | bay => exact QueueInv.putBay (s := afterCycle fell r s) h _
  | bayTwice => exact (QueueInv.putBay (s := afterCycle fell r s) h _).putBay _
  | passEnds channel c =>
    obtain ⟨-, -, -, line, -⟩ := pass.1 (by rw [ends.pos_eq_s3 channel]; rfl)
    have leave : s.line.queue.leave = .empty := by rw [line]; rfl
    obtain ⟨-, -, vetoes, -⟩ := (queueInv_iff s).1 h
    unfold State.leaveStrapPass
    split_ifs
    exacts [enterBarred _, hailFromDown (by exact leave) vetoes, h]

theorem effect {u : State} {c : Instr} (h : QueueInv s) (pass : StrapPassInv s) (effect : Effect s c u) : QueueInv u := by
  obtain ⟨fits, join, vetoes, admitted⟩ := (queueInv_iff s).1 h
  have closed := queueInv_closed
  cases effect with
  | nothing | sampled | enLevel | driveEnded | rearmed | quietOver | censusIdle | heartbeatIdle | isolationIdle | leaveIdle | muteIdle
  | statStep => exact h
  | recorded input fell r ends => exact h.delivered pass ends (deliver_delivered _ _)
  | lineIdle =>
    refine .mk fits.requeue (.of_none rfl) vetoes fun joined => ?_
    simp only [State.seeIdle, admitted joined, Bool.true_or]
  | unheard => exact .mk fits (.of_none rfl) vetoes admitted
  | vetoedByOthers => exact h.afterVeto
  | vetoedByThis _ _ below => exact .mk fits.requeue (.of_none rfl) below admitted
  | muted => exact enterMute _
  | duplicate => exact enterBarred _
  | noBlock => exact h.afterAccept _
  | joinOwn n b accepts own station link => exact h.enterCensus accepts.1 own link
  | joinPeer | leavePeer => exact closed.putRowOf (h.afterAccept false) _ _
  | demandOwn n b accepts =>
    refine closed.takeDemand ?_ _ accepts.stage_quiet_le.2
    exact h.afterAccept true
  | demandAdopted n b accepts => exact closed.adopt (h.afterAccept true) accepts.stage_quiet_le.2
  | demandPeer n b accepts => exact closed.takeDemand (h.afterAccept false) _ accepts.stage_quiet_le.2
  | leaveOwn n b accepts own link => exact (closed.putRowOf (h.afterAccept true) _ _).endLeaving (by simpa [Sys2Proof.Machine.afterAccept] using link)
  | queryAnswered n q r takes counted room =>
    obtain ⟨⟨joins, leaves, demands, -, -⟩, none, vetoes', admitted'⟩ := (queueInv_iff _).1 (h.afterAccept false)
    refine .mk ⟨joins, leaves, demands, fun _ => counted, ?_⟩ none vetoes' admitted'
    rw [List.length_append]
    exact room
  | holdExpired => exact h.putCommit _
  | enabled down =>
    exact hailFromDown (s := { s with pins.en := true }) (fits.leave_empty (by rw [down]; nofun)) vetoes
  | disabledCounted counted => exact enterLeaving (s := { s with pins.en := false }) h counted
  | disabledHailing link => exact enterDown (s := { s with pins.en := false }) h (by rw [link]; rfl)
  | alarmFell => exact stepUp_keeps closed (fun _ h => h) (QueueInv.clampLimit (by exact h))
  | alarmRose => rw [checkOnRise_eq]; exact h
  | stuck | quietStep => exact closed.putStage (by exact h) _
  | censusOver due link => exact h.enterOn link
  | heartbeat due counted => exact requestDemand (by exact h) counted false
  | spacing => exact judgeDemand (by exact h)
  | isolated due counted =>
    exact enterHailing (s := { s with line.timers.isolation := .idle, line.isolated := true })
      (fits.leave_empty fun link => by rw [link] at counted; cases counted) vetoes fun _ _ sent => h.no_join counted sent
  | leaveOver due link => exact endLeaving (s := { s with line.timers.leave := .idle }) h link
  | muteOverEnabled due link =>
    exact enterHailing (s := { s with line.timers.mute := .idle, line.admitted := false }) (fits.leave_empty (by rw [link]; nofun)) vetoes nofun
  | muteOverDisabled due link => exact enterDown (s := { s with line.timers.mute := .idle }) h (by rw [link]; rfl)
  | silenced | released => exact closed.putRowOf h _ _
  | prechargeOver | chargeOver => exact h.putBay _

end QueueInv

/-- Settles O15: each entry of a link state empties the slots that it may not hold, and a slot is filled only where its state may fill it. -/
theorem queueInvKept : Obligations.QueueInvKept := fun _ _ pass h run =>
  step_keeps_under (Q := StrapPassInv) (fun _ _ h => h) (fun _ _ h => h)
    (fun _ _ _ _ => .mk (.empty _) (.of_none rfl) zero_lt_vetoRunLimit nofun) (fun _ _ _ pass h effect => (h.effect pass effect).settle) pass h run

end Sys2Proof.Machine
end

section
/-! PROOFS. The own row, the target and the own frame on the line in CENSUS, the own station number, and the obligation on them. -/

namespace Sys2Proof.Machine

set_option Elab.async false

/-! ### Rows that are not ACTIVE -/

theorem findRow_map {f : Row → Row} (station : ∀ r, (f r).station = r.station) (n : Nat) (rows : List Row) :
    findRow n (rows.map f) = (findRow n rows).map f := by
  induction rows with
  | nil => rfl
  | cons a rows ih =>
    rw [List.map_cons, findRow_cons, findRow_cons, station, ih]
    split_ifs <;> rfl

theorem ageRow_isActive (r : Row) : (ageRow r).isActive = r.isActive := by
  obtain ⟨_, status⟩ := r
  cases status <;> rfl

theorem joinRow_not_active {n : Nat} {b : JoinBody} {old : Option Row} {r : Row} (new : joinRow n b old = some r) : r.isActive = false := by
  cases old with
  | none => cases new; rfl
  | some a =>
    obtain ⟨_, status⟩ := a
    cases status <;> cases new <;> rfl

theorem dispute_not_active (r : Row) : r.dispute.isActive = false := by
  obtain ⟨_, status⟩ := r
  cases status <;> rfl

theorem demandRow_not_active {n : Nat} {b : DemandBody} (mode : b.mode = .census) {old : Option Row} {r : Row}
    (new : demandRow n b old = some r) : r.isActive = false := by
  cases old with
  | none =>
    simp only [demandRow, mode] at new
    cases new
    rfl
  | some a =>
    simp only [demandRow, mode] at new
    split at new
    next => cases new; rfl
    all_goals
      split_ifs at new
      · cases new; rfl
      · cases new; exact dispute_not_active a

theorem silenceRow_not_active (r : Row) : (silenceRow r).isActive = false := by
  obtain ⟨_, status⟩ := r
  cases status <;> rfl

/-- A row that is not ACTIVE is granted one floor at most (R34). -/
theorem recomputeRow_grant_le {rows : List Row} (ordered : rows.Pairwise fun a b => a.station < b.station) {r : Row} (hr : r ∈ rows)
    (quiet : r.isActive = false) (stage : Nat) : (recomputeRow rows stage r).grant ≤ floorUnits := by
  cases live : r.live with
  | false =>
    rw [recomputeRow_of_not_live live, Row.grant_of_not_live live]
    exact Nat.zero_le _
  | true =>
    obtain ⟨basis, c, -, hc, rfl, written⟩ := recomputeRow_written ordered hr live stage
    rw [written, Claim.written_grant hc]
    cases starved : c.starved with
    | true => rw [Claim.grant_of_starved hc starved]; exact Nat.zero_le _
    | false => exact (Claim.grant_of_not_active hc quiet starved).le

/-! ### The own row and the target (R38, R51) -/

/-- The own row is not ACTIVE. -/
def OwnRowQuiet (s : State) : Prop := ∀ r, s.ownRow = some r → r.isActive = false

/-- The share of a station that has not announced itself: a target of one floor at most, and a row that is not ACTIVE. -/
def Modest (s : State) : Prop := s.commit.target ≤ floorUnits ∧ OwnRowQuiet s

theorem ownRow_congr {s t : State} (number : t.ownNumber = s.ownNumber) (table : t.table = s.table) : t.ownRow = s.ownRow := by
  rw [State.ownRow, State.ownRow, number, table]

theorem Modest.of_eq {s t : State} (h : Modest s) (target : t.commit.target = s.commit.target) (number : t.ownNumber = s.ownNumber)
    (table : t.table = s.table) : Modest t := by
  unfold Modest OwnRowQuiet
  rw [target, ownRow_congr number table]
  exact h

theorem ownRow_map {s t : State} {f : Row → Row} (station : ∀ r, (f r).station = r.station) (number : t.ownNumber = s.ownNumber)
    (table : t.table = s.table.map f) : t.ownRow = s.ownRow.map f := by
  rw [State.ownRow, State.ownRow, number, table]
  cases s.ownNumber with
  | none => rfl
  | some n => exact findRow_map station n _

theorem ownNumber_congr {s t : State} (config : t.config = s.config) : t.ownNumber = s.ownNumber := by
  rw [State.ownNumber, State.ownNumber, config]

section Recomputes

variable {s : State} (wf : TableInv s)

include wf

/-- A recompute grants the own row one floor at most while it is not ACTIVE. -/
theorem modest_recompute (counted : LinkState.counted s.line.link = true) (quiet : OwnRowQuiet s) (before : List Row) :
    Modest (s.recompute before) := by
  have number : (s.recompute before).ownNumber = s.ownNumber := ownNumber_congr (by simp)
  have row : (s.recompute before).ownRow = s.ownRow.map (recomputeRow s.table s.feed.stage) :=
    ownRow_map (recomputeRow_station _ _) number (by rw [State.recompute_table, recomputeRows_eq_map])
  refine ⟨?_, fun r own => ?_⟩
  · rw [recompute_commit]
    dsimp only
    rw [targetOf_of_counted counted, recomputeRows_eq_map]
    cases own : s.ownNumber with
    | none => exact Nat.zero_le _
    | some n =>
      rw [Option.bind_some, findRow_map (recomputeRow_station _ _)]
      cases found : findRow n s.table with
      | none => exact Nat.zero_le _
      | some r =>
        have ownRow : s.ownRow = some r := by rw [State.ownRow, own]; exact found
        exact recomputeRow_grant_le wf.1 (findRow_some found).1 (quiet r ownRow) _
  · rw [row] at own
    obtain ⟨r', ownRow, rfl⟩ := Option.map_eq_some_iff.1 own
    rw [recomputeRow_isActive]
    exact quiet r' ownRow

theorem modest_putStage (counted : LinkState.counted s.line.link = true) (h : Modest s) (k : Nat) : Modest (s.putStage k) := by
  unfold State.putStage
  split_ifs
  · exact h
  · refine modest_recompute ?_ ?_ ?_ _
    exacts [wf, counted, h.2]

theorem modest_adopt (counted : LinkState.counted s.line.link = true) (h : Modest s) (b : DemandBody) : Modest (s.adopt b) := by
  unfold State.adopt
  split_ifs
  · refine modest_putStage ?_ ?_ ?_ _
    exacts [wf, counted, h]
  · exact h

/-- One row changes: the own one to a row that is not ACTIVE, or another. -/
theorem modest_putRowOf (counted : LinkState.counted s.line.link = true) (target : s.commit.target ≤ floorUnits) {n : Nat} {new : Option Row}
    (fits : RowFits n new)
    (quiet : ∀ m, s.ownNumber = some m → ∀ r, (if m = n then new else findRow m s.table) = some r → r.isActive = false) :
    Modest (s.putRowOf n new) := by
  have placed : OwnRowQuiet { s with table := putRow n new s.table } := by
    intro r own
    obtain ⟨m, number, found⟩ := Option.bind_eq_some_iff.1 own
    rw [findRow_putRow wf.1 fun r h => (fits r h).1] at found
    exact quiet m number r found
  unfold State.putRowOf
  dsimp only
  split_ifs
  · refine modest_recompute ?_ ?_ placed _
    exacts [putRow_tableWf wf fits, counted]
  · exact ⟨target, placed⟩

/-- A change of a row that leaves the own one alone, or makes it not ACTIVE. -/
theorem modest_putRowOf_of_modest (counted : LinkState.counted s.line.link = true) (h : Modest s) {n : Nat} {new : Option Row}
    (fits : RowFits n new) (quiet : s.ownNumber = some n → ∀ r, new = some r → r.isActive = false) : Modest (s.putRowOf n new) := by
  refine modest_putRowOf wf counted h.1 fits fun m number r found => ?_
  split_ifs at found with own
  · rw [own] at number
    exact quiet number r found
  · exact h.2 r (by rw [State.ownRow, number]; exact found)

theorem modest_takeDemand (counted : LinkState.counted s.line.link = true) (h : Modest s) {n : Nat} {b : DemandBody}
    (station : 1 ≤ n ∧ n ≤ 16) (small : b.demand.toNat ≤ 160) (quiet : s.ownNumber = some n → b.mode = .census) :
    Modest (s.takeDemand n b) := by
  have applied {v : State} (wf : TableInv v) (counted : LinkState.counted v.line.link = true) (h : Modest v)
      (number : v.ownNumber = s.ownNumber) : Modest (v.applyDemand n b) :=
    modest_putRowOf_of_modest wf counted h (demandRow_fits (findRow_fits wf n) station small) fun own r new =>
      demandRow_not_active (quiet (number ▸ own)) new
  have inOrder {v : State} (wf : TableInv v) (counted : LinkState.counted v.line.link = true) (h : Modest v)
      (number : v.ownNumber = s.ownNumber) : Modest ((v.adopt b).applyDemand n b) ∧ Modest ((v.applyDemand n b).adopt b) := by
    refine ⟨applied (adopt_tableInv wf b) ?_ (modest_adopt wf counted h b) ?_,
      modest_adopt (applyDemand_tableInv wf station small) ?_ (applied wf counted h number) b⟩
    · rwa [State.adopt_line_link]
    · rw [← number]; exact ownNumber_congr (State.adopt_config _ _)
    · rwa [State.applyDemand_line_link]
  have number : State.ownNumber { s with choices := s.choices + 1 } = s.ownNumber := ownNumber_congr rfl
  have wf' : TableInv { s with choices := s.choices + 1 } := wf
  have h' : Modest { s with choices := s.choices + 1 } := h.of_eq rfl number rfl
  obtain ⟨adoptFirst, applyFirst⟩ := inOrder wf' counted h' number
  unfold State.takeDemand
  dsimp only
  split_ifs
  exacts [adoptFirst, applyFirst, applied wf counted h rfl]

end Recomputes

/-! ### The own frame on the line (R61, R165) -/

theorem OwnNumberInv.of_eq {s t : State} (h : OwnNumberInv s) (config : t.config = s.config) (wire : t.wire.tx = s.wire.tx) : OwnNumberInv t := by
  unfold OwnNumberInv
  rw [ownNumber_congr config, wire]
  exact h

theorem OwnNumberInv.of_none {s t : State} (h : OwnNumberInv s) (config : t.config = s.config) (none : t.wire.tx = none) : OwnNumberInv t := by
  unfold OwnNumberInv
  rw [ownNumber_congr config, none]
  exact ⟨h.1, fun _ sent => by cases sent⟩

/-- No DEMAND of mode ACTIVE is on the line. -/
def NoActiveDemand (s : State) : Prop := ∀ f, s.wire.tx = some f → isActiveDemand f = false

theorem censusInv_iff (s : State) : CensusInv s ↔ (s.line.link = .census → Modest s ∧ NoActiveDemand s) := by
  unfold CensusInv Modest OwnRowQuiet NoActiveDemand
  tauto

theorem CensusInv.of_link {s : State} (link : s.line.link ≠ .census) : CensusInv s := fun census => absurd census link

/-- The frame that begins at an idle in CENSUS is no DEMAND of mode ACTIVE, and it bears the own number (R61, R165). -/
theorem offer_quiet {s : State} {p : Payload} {q : TxQueue} (offered : s.offer = some (p, q)) (link : s.line.link = .census) (n : Sender) :
    isActiveDemand ⟨n, p⟩ = false := by
  unfold State.offer at offered
  dsimp only at offered
  split_ifs at offered
  · cases offered; rfl
  · cases offered; rfl
  · cases offered
    simp only [isActiveDemand, State.buildDemand, demandMode, link]
    rfl
  · split at offered <;> cases offered
    rfl

theorem beginFrame_tx (s : State) :
    s.beginFrame.wire.tx = s.wire.tx ∨
      ∃ n p q, s.ownNumber = some n ∧ s.offer = some (p, q) ∧ s.beginFrame.wire.tx = some ⟨BitVec.ofNat 5 n, p⟩ := by
  unfold State.beginFrame
  split
  next => exact .inl rfl
  next n number =>
    split_ifs
    · split
      next p q offered => exact .inr ⟨n, p, q, number, offered, rfl⟩
      next => exact .inl rfl
    · exact .inl rfl

/-- What this station keeps of its number and of CENSUS. -/
def CensusKept (s : State) : Prop := OwnNumberInv s ∧ CensusInv s

theorem CensusKept.settle {u : State} (h : CensusKept u) : CensusKept u.settle := by
  obtain ⟨⟨range, frame⟩, census⟩ := h
  rw [censusInv_iff] at census
  have number : u.settle.ownNumber = u.ownNumber := ownNumber_congr (by simp)
  have wire : u.settle.wire = u.beginFrame.wire := by simp [State.settle]
  have modest (link : u.settle.line.link = .census) : Modest u.settle :=
    (census (by simpa using link)).1.of_eq (by simp) number (by simp)
  unfold CensusKept OwnNumberInv
  rw [censusInv_iff, number, NoActiveDemand, wire]
  rcases beginFrame_tx u with same | ⟨n, p, q, own, offered, begun⟩
  · rw [same]
    exact ⟨⟨range, frame⟩, fun link => ⟨modest link, (census (by simpa using link)).2⟩⟩
  · rw [begun]
    refine ⟨⟨range, fun f sent => ?_⟩, fun link => ⟨modest link, fun f sent => ?_⟩⟩
    · cases sent
      have := range n own
      rw [own, BitVec.toNat_ofNat, Nat.mod_eq_of_lt (by omega)]
    · cases sent
      exact offer_quiet offered (by simpa using link) _

/-! ### Number and CENSUS under the commands -/

theorem own_demand_mode {s : State} {n : Sender} {b : DemandBody} (quiet : NoActiveDemand s) (own : IsOwn s ⟨n, .demand b⟩) :
    b.mode = .census := by
  have mode := quiet _ own
  simp only [isActiveDemand] at mode
  cases is : b.mode with
  | census => rfl
  | active => rw [is] at mode; cases mode

namespace CensusKept

variable {s u : State} (h : CensusKept s)

include h

/-- A change that sends nothing new and enters no CENSUS, and under which a modest share stays one. -/
theorem moves (config : u.config = s.config) (tx : u.wire.tx = s.wire.tx ∨ u.wire.tx = none)
    (census : u.line.link = .census → s.line.link = .census ∧ (Modest s → Modest u)) : CensusKept u := by
  obtain ⟨number, kept⟩ := h
  rw [censusInv_iff] at kept
  refine ⟨tx.elim (number.of_eq config) (number.of_none config), (censusInv_iff u).2 fun link => ?_⟩
  obtain ⟨old, modest⟩ := census link
  obtain ⟨share, quiet⟩ := kept old
  refine ⟨modest share, fun f sent => ?_⟩
  rcases tx with same | none
  · exact quiet f (same ▸ sent)
  · rw [none] at sent; cases sent

theorem of_eq (config : u.config = s.config) (tx : u.wire.tx = s.wire.tx ∨ u.wire.tx = none) (link : u.line.link = s.line.link)
    (target : u.commit.target = s.commit.target) (table : u.table = s.table) : CensusKept u :=
  h.moves config tx fun census => ⟨link ▸ census, fun modest => modest.of_eq target (ownNumber_congr config) table⟩

/-- An entry of another link state than CENSUS. -/
theorem leaves (config : u.config = s.config) (tx : u.wire.tx = s.wire.tx ∨ u.wire.tx = none) (link : u.line.link ≠ .census) : CensusKept u :=
  h.moves config tx fun census => absurd census link

/-- A change built on recomputes, at a station that stays in its link state. -/
theorem recomputes (config : u.config = s.config) (tx : u.wire.tx = s.wire.tx ∨ u.wire.tx = none) (link : u.line.link = s.line.link)
    (modest : s.line.link = .census → LinkState.counted s.line.link = true → Modest s → Modest u) : CensusKept u :=
  h.moves config tx fun census =>
    have old := link ▸ census
    ⟨old, modest old (by rw [old]; rfl)⟩

theorem tick : CensusKept s.tick := by
  refine h.recomputes rfl (.inl rfl) rfl fun _ _ ⟨target, quiet⟩ => ⟨target, fun r own => ?_⟩
  rw [ownRow_map (s := s) (t := s.tick) ageRow_station rfl rfl] at own
  obtain ⟨r', ownRow, rfl⟩ := Option.map_eq_some_iff.1 own
  rw [ageRow_isActive]
  exact quiet r' ownRow

theorem putRowOf (wf : TableInv s) {n : Nat} {new : Option Row} (fits : RowFits n new)
    (quiet : s.line.link = .census → s.ownNumber = some n → ∀ r, new = some r → r.isActive = false) : CensusKept (s.putRowOf n new) :=
  h.recomputes (by simp) (.inl (by simp)) (by simp) fun link counted share => modest_putRowOf_of_modest wf counted share fits (quiet link)

theorem putStage (wf : TableInv s) (k : Nat) : CensusKept (s.putStage k) :=
  h.recomputes (by simp) (.inl (by simp)) (by simp) fun _ counted share => modest_putStage wf counted share k

theorem adopt (wf : TableInv s) (b : DemandBody) : CensusKept (s.adopt b) :=
  h.recomputes (by simp) (.inl (by simp)) (by simp) fun _ counted share => modest_adopt wf counted share b

theorem takeDemand (wf : TableInv s) {n : Sender} {b : DemandBody} (station : isStationSender n = true) (small : b.demand.toNat ≤ 160)
    (quiet : s.line.link = .census → s.ownNumber = some n.toNat → b.mode = .census) : CensusKept (s.takeDemand n.toNat b) :=
  h.recomputes (by simp) (.inl (by simp)) (by simp) fun link counted share =>
    modest_takeDemand wf counted share ((isStationSender_iff n).1 station) small (quiet link)

theorem stepUp (wf : TableInv s) : CensusKept s.stepUp := by
  unfold State.stepUp
  split_ifs
  · exact CensusKept.putStage (by exact h) (by exact wf) _
  · exact h

theorem clampLimit : CensusKept s.clampLimit := by
  unfold State.clampLimit
  split_ifs
  · exact h.of_eq (by simp) (.inl (by simp)) (by simp) (by simp) (by simp)
  · exact h

theorem endLeaving : CensusKept s.endLeaving := by
  refine h.leaves (by simp) (.inl (by simp)) ?_
  rw [endLeaving_link]
  split_ifs <;> nofun

/-- The own number comes with the end of the strap pass, 1 to 16, when nothing is on the line (R151, R152). -/
theorem delivered {input : Int} {fell : Bool} {r : Reading} (pass : StrapPassInv s) (ends : CycleEnds s input r)
    (delivered : Delivered (afterCycle fell r s) r u) : CensusKept u := by
  have before : CensusKept (afterCycle fell r s) := h.tick
  cases delivered with
  | watched | kept | strapRead => exact before
  | bay | bayTwice => exact before.of_eq (by simp) (.inl (by simp)) (by simp) (by simp) (by simp)
  | passEnds channel c range =>
    obtain ⟨-, none, -, line, -⟩ := pass.1 (by rw [ends.pos_eq_s3 channel]; rfl)
    have loaded : CensusKept ((afterCycle fell r s).withConfig c) := by
      refine ⟨⟨range, fun f sent => ?_⟩, .of_link ?_⟩
      · rw [show ((afterCycle fell r s).withConfig c).wire.tx = s.wire.tx from rfl, none] at sent
        cases sent
      · rw [show ((afterCycle fell r s).withConfig c).line.link = s.line.link from rfl, line]
        nofun
    unfold State.leaveStrapPass
    split_ifs
    · exact loaded.leaves (by simp) (.inl (by simp)) (by simp)
    · exact loaded.leaves (by simp) (.inl (by simp)) (by simp)
    · exact loaded

/-- The own JOIN accepted: T is still 0, and the own row, whatever it was, is JOINING or DISPUTED after it (R17, R65). -/
theorem enterCensus {n : Sender} {b : JoinBody} (wf : TableInv s) (commit : CommitInv s) (own : IsOwn s ⟨n, .join b⟩)
    (station : isStationSender n = true) (link : s.line.link = .hailing) : CensusKept ((afterAccept true s).enterCensus n.toNat b) := by
  have none : ((afterAccept true s).enterCensus n.toNat b).wire.tx = none := by simp [State.enterCensus, afterAccept]
  have config : ((afterAccept true s).enterCensus n.toNat b).config = s.config := by simp [State.enterCensus, afterAccept]
  have number : s.ownNumber = some n.toNat := h.1.2 _ own
  have target : s.commit.target = 0 := by
    obtain ⟨-, -, -, outside, -⟩ := commit
    exact (outside (by rw [link]; rfl)).1
  refine ⟨h.1.of_none config none, (censusInv_iff _).2 fun _ => ⟨?_, fun f sent => by rw [none] at sent; cases sent⟩⟩
  have fits := joinRow_fits (findRow_fits wf n.toNat) ((isStationSender_iff n).1 station) b
  unfold State.enterCensus
  refine modest_putRowOf ?_ ?_ ?_ fits fun m own' r new => ?_
  · exact wf
  · rfl
  · exact (target.trans_le (Nat.zero_le _))
  · have same : m = n.toNat := Option.some.inj (own'.symm.trans number)
    rw [if_pos same] at new
    exact joinRow_not_active new

theorem effect {c : Instr} (pass : StrapPassInv s) (wf : TableInv s) (commit : CommitInv s) (effect : Effect s c u) : CensusKept u := by
  have accepted (own : Bool) : CensusKept (afterAccept own s) := h.of_eq rfl (.inr rfl) rfl rfl rfl
  have census (link : s.line.link = .census) := (censusInv_iff s).1 h.2 link
  cases effect with
  | nothing | enLevel | driveEnded | rearmed | quietOver | censusIdle | heartbeat | heartbeatIdle | isolationIdle | leaveIdle | muteIdle
  | statStep => exact h
  | lineIdle | unheard | vetoedByOthers | vetoedByThis | noBlock | queryAnswered => exact h.of_eq rfl (.inr rfl) rfl rfl rfl
  | sampled => exact h.tick
  | recorded input fell r ends => exact h.delivered pass ends (deliver_delivered _ _)
  | muted | duplicate => exact h.leaves (by simp [afterVeto, afterAccept]) (.inr (by simp [afterVeto, afterAccept])) (by simp)
  | enabled | disabledCounted | disabledHailing | isolated | muteOverEnabled | muteOverDisabled =>
    exact h.leaves (by simp) (.inl (by simp)) (by simp)
  | leaveOwn n b accepts own link =>
    have removed : CensusKept ((afterAccept true s).putRowOf n.toNat none) := (accepted true).putRowOf (by exact wf) nofun fun _ _ => nofun
    exact removed.endLeaving
  | leaveOver => exact endLeaving (s := { s with line.timers.leave := .idle }) h
  | censusOver => exact h.leaves rfl (.inl rfl) nofun
  | joinOwn n b accepts own station link => exact h.enterCensus wf commit own station link
  | joinPeer n b accepts peer station =>
    exact (accepted false).putRowOf (by exact wf) (joinRow_fits (findRow_fits wf _) ((isStationSender_iff n).1 station) b)
      fun _ own => absurd own peer.2
  | leavePeer n b accepts peer =>
    exact (accepted false).putRowOf (by exact wf) (leaveRow_fits (findRow_fits wf _) b) fun _ own => absurd own peer.2
  | demandOwn n b accepts own station =>
    have announced : CensusKept ((afterAccept true s).announced b) := (accepted true).of_eq rfl (.inl rfl) rfl rfl rfl
    exact announced.takeDemand (by exact wf) station accepts.demand_le fun link _ => own_demand_mode (census link).2 own
  | demandAdopted n b accepts => exact (accepted true).adopt (by exact wf) b
  | demandPeer n b accepts peer station =>
    exact (accepted false).takeDemand (by exact wf) station accepts.demand_le fun _ own => absurd own peer.2
  | holdExpired | prechargeOver | chargeOver | spacing => exact h.of_eq (by simp) (.inl (by simp)) (by simp) (by simp) (by simp)
  | alarmFell =>
    have low : CensusKept { s with pins.almHigh := false } := h
    exact low.clampLimit.stepUp (wf.of_table_eq (State.clampLimit_table _))
  | alarmRose => rw [checkOnRise_eq]; exact h
  | stuck due =>
    have idle : CensusKept { s with feed.low := .idle, feed.stuck := true } := h
    exact idle.putStage (by exact wf) _
  | quietStep due =>
    have restarted : CensusKept { s with feed.quiet := quietAfter (s.feed.stage - 1) } := h
    exact restarted.putStage (by exact wf) _
  | silenced n r row =>
    exact h.putRowOf wf (silenceRow_fits (findRow_fits wf n) row) fun _ _ r' new => by cases new; exact silenceRow_not_active r
  | released => exact h.putRowOf wf nofun fun _ _ => nofun

end CensusKept

/-- What the census statement supposes of the state before the step. -/
def CensusGround (s : State) : Prop := StrapPassInv s ∧ TableInv s ∧ CommitInv s

/-- Settles O12: no command makes the own row ACTIVE in CENSUS, for its own DEMANDs have mode CENSUS there; and a row that is not ACTIVE is
granted one floor at most. -/
theorem censusInvKept : Obligations.CensusInvKept := fun _ _ pass wf commit number census run =>
  step_keeps_under (Q := CensusGround) (P := CensusKept) (fun _ _ h => h) (fun _ _ h => h)
    (fun _ _ _ _ => ⟨⟨fun _ => nofun, fun _ => nofun⟩, .of_link nofun⟩)
    (fun _ _ _ ⟨pass, wf, commit⟩ h effect => (h.effect pass wf commit effect).settle) ⟨pass, wf, commit⟩ ⟨number, census⟩ run

end Sys2Proof.Machine
end

section
/-! PROOFS. The running cycle and the reading store under every command, and the obligation on them. -/

namespace Sys2Proof.Machine

set_option Elab.async false

/-! ### The mean of samples, truncated toward zero (R116) -/

/-- A sum that lies between n times low and n times high has a truncated mean between low and high. -/
theorem tdiv_bounds {n : Nat} (pos : 0 < n) {low high sum : Int} (above : n * low ≤ sum) (below : sum ≤ n * high) :
    low ≤ sum.tdiv n ∧ sum.tdiv n ≤ high := by
  have count : (0 : Int) < n := by exact_mod_cast pos
  have exact (v : Int) : ((n : Int) * v).tdiv n = v := Int.mul_tdiv_cancel_left v count.ne'
  constructor
  · calc low = ((n : Int) * low).tdiv n := (exact low).symm
      _ ≤ sum.tdiv n := Int.tdiv_le_tdiv count above
  · calc sum.tdiv n ≤ ((n : Int) * high).tdiv n := Int.tdiv_le_tdiv count below
      _ = high := exact high

/-! ### The accumulators of a cycle (R112, R114) -/

/-- Accumulators that have taken samples of a channel: range, order, and a sum where the mean of the samples lies. -/
def Accumulators.Held (c : Channel) (a : Accumulators) : Prop :=
  inRange c a.min ∧ inRange c a.max ∧ a.min ≤ a.last ∧ a.last ≤ a.max ∧ a.count * a.min ≤ a.sum ∧ a.sum ≤ a.count * a.max

/-- Samples inside the limit window of the channel being converted (R115). -/
def Accumulators.Inside (c : Channel) (overvoltage : Option Int) (a : Accumulators) : Prop :=
  (c = .feedv → 4600 ≤ a.min) ∧ (c = .bayv → ∀ limit, overvoltage = some limit → a.max ≤ limit)

theorem scanInv_iff (s : State) :
    ScanInv s ↔ s.scan.acc.count < s.scan.pos.samples ∧ (s.scan.acc.count = 0 → s.scan.acc.sum = 0) ∧
      (0 < s.scan.acc.count → s.scan.acc.Held s.scan.pos.channel ∧ s.scan.acc.Inside s.scan.pos.channel s.scan.overvoltage) ∧
      ∀ c r, s.store.entry c = some r → goodReading c r := by
  unfold ScanInv Accumulators.Held Accumulators.Inside
  tauto

theorem sampleOf_inRange (c : Channel) (input : Int) : inRange c (sampleOf c input) := by
  have range : (channelRange c).1 ≤ (channelRange c).2 := by cases c <;> decide
  exact ⟨le_max_left _ _, max_le range (min_le_right _ _)⟩

@[simp] theorem sampled_last (a : Accumulators) (v : Int) : (sampled a v).last = v := by
  unfold sampled
  split_ifs <;> rfl

/-- One more sample in its range keeps the accumulators in their order. -/
theorem sampled_held {c : Channel} {a : Accumulators} {v : Int} (none : a.count = 0 → a.sum = 0) (some : 0 < a.count → a.Held c)
    (range : inRange c v) : (sampled a v).Held c := by
  unfold sampled
  split_ifs with first
  · refine ⟨range, range, le_rfl, le_rfl, ?_, ?_⟩ <;> simp [none first]
  · obtain ⟨⟨minLow, minHigh⟩, ⟨maxLow, maxHigh⟩, -, -, above, below⟩ := some (Nat.pos_of_ne_zero first)
    obtain ⟨low, high⟩ := range
    refine ⟨⟨le_min minLow low, (min_le_right _ _).trans high⟩, ⟨low.trans (le_max_right _ _), max_le maxHigh high⟩, min_le_right _ _,
      le_max_right _ _, ?_, ?_⟩
    · have counted : (a.count : Int) * min a.min v ≤ a.count * a.min := Int.mul_le_mul_of_nonneg_left (min_le_left _ _) (Int.natCast_nonneg _)
      have newest : min a.min v ≤ v := min_le_right _ _
      push_cast
      linarith
    · have counted : (a.count : Int) * a.max ≤ a.count * max a.max v := Int.mul_le_mul_of_nonneg_left (le_max_left _ _) (Int.natCast_nonneg _)
      have newest : v ≤ max a.max v := le_max_right _ _
      push_cast
      linarith

theorem sampled_inside {s : State} {v : Int} (inside : 0 < s.scan.acc.count → s.scan.acc.Inside s.scan.pos.channel s.scan.overvoltage)
    (window : ¬Outside s v) : (sampled s.scan.acc v).Inside s.scan.pos.channel s.scan.overvoltage := by
  obtain ⟨feed, bay⟩ := not_or.1 window
  have feedInside (feedv : s.scan.pos.channel = .feedv) : 4600 ≤ v := not_lt.1 fun low => feed ⟨feedv, low⟩
  have bayInside (bayv : s.scan.pos.channel = .bayv) (limit : Int) (taken : s.scan.overvoltage = some limit) : v ≤ limit :=
    not_lt.1 fun high => bay ⟨bayv, limit, taken, high⟩
  unfold sampled
  split_ifs with first
  · exact ⟨feedInside, bayInside⟩
  · obtain ⟨feedOld, bayOld⟩ := inside (Nat.pos_of_ne_zero first)
    exact ⟨fun feedv => le_min (feedOld feedv) (feedInside feedv),
      fun bayv limit taken => max_le (bayOld bayv limit taken) (bayInside bayv limit taken)⟩

/-! ### A record and the store (R116, R118) -/

theorem samplesOf_channel (p : ScanPos) : samplesOf p.channel = p.samples := by cases p <;> rfl

theorem samples_pos (p : ScanPos) : 0 < p.samples := by cases p <;> decide

/-- A record replaces the entry of its own channel and no other (R118). -/
theorem entry_put (t : ReadingStore) (r : Reading) (c : Channel) : (t.put r).entry c = if c = r.channel then some r else t.entry c := by
  obtain ⟨channel, _⟩ := r
  cases channel <;> cases c <;> rfl

theorem CycleEnds.goodReading {s : State} {input : Int} {r : Reading} (ends : CycleEnds s input r) (inv : ScanInv s) :
    goodReading r.channel r := by
  obtain ⟨below, none, some, -⟩ := (scanInv_iff s).1 inv
  obtain ⟨last, limit, channel, count, min, max, average, latest⟩ := ends
  have held := sampled_held none (fun taken => (some taken).1) (sampleOf_inRange s.scan.pos.channel input)
  obtain ⟨minRange, maxRange, lastLow, lastHigh, above, beneath⟩ := held
  obtain ⟨low, high⟩ := tdiv_bounds (by simp) above beneath
  rw [sampled_last] at lastLow lastHigh
  rw [sampled_count] at last count
  unfold Machine.goodReading
  rw [min, max, average, latest, channel, samplesOf_channel]
  refine ⟨rfl, by omega, by omega, fun complete => ?_, fun isLimit => ?_, low, high, lastLow, lastHigh, minRange, maxRange⟩
  · have inside : ¬Outside s (sampleOf s.scan.pos.channel input) := fun outside => by
      rw [limit.2 outside] at complete
      cases complete
    have whole := last.resolve_left inside
    omega
  · rcases limit.1 isLimit with feed | bay
    · exact .inl feed.1
    · exact .inr bay.1

/-! ### Scan and store under the commands -/

/-- A delivered record leaves the cycle and the store as they are; the end of the strap pass writes the overvoltage limit alone. -/
theorem delivered_scan {v u : State} {r : Reading} (delivered : Delivered v r u) :
    u.store = v.store ∧ u.scan.pos = v.scan.pos ∧ u.scan.acc = v.scan.acc := by
  cases delivered with
  | watched | kept | strapRead => exact ⟨rfl, rfl, rfl⟩
  | bay | bayTwice => simp
  | passEnds =>
    refine ⟨?_, by simp [State.withConfig], by simp [State.withConfig]⟩
    unfold State.leaveStrapPass
    split_ifs <;> simp [State.withConfig]

@[simp] theorem State.clampLimit_store (s : State) : s.clampLimit.store = s.store := by
  unfold State.clampLimit
  split_ifs <;> simp

@[simp] theorem State.stepUp_store (s : State) : s.stepUp.store = s.store := by
  unfold State.stepUp
  split_ifs <;> simp

/-- No command but a conversion touches scan or store. -/
theorem Effect.scan_store {s u : State} {c : Instr} (effect : Effect s c u) :
    (u.scan = s.scan ∧ u.store = s.store) ∨
      (∃ input fell, ¬Outside s (sampleOf s.scan.pos.channel input) ∧ s.scan.acc.count + 1 < s.scan.pos.samples ∧
        u = afterSample fell (sampleOf s.scan.pos.channel input) s) ∨
      ∃ input fell r, CycleEnds s input r ∧ Delivered (afterCycle fell r s) r u := by
  cases effect with
  | sampled input fell inside more => exact .inr (.inl ⟨input, fell, inside, more, rfl⟩)
  | recorded input fell r ends => exact .inr (.inr ⟨input, fell, r, ends, deliver_delivered _ _⟩)
  | nothing | lineIdle | unheard | vetoedByOthers | vetoedByThis | noBlock | queryAnswered | enLevel | driveEnded | rearmed
  | quietOver | censusOver | censusIdle | heartbeat | heartbeatIdle | isolationIdle | leaveIdle | muteIdle | statStep =>
    exact .inl ⟨rfl, rfl⟩
  | alarmRose => rw [checkOnRise_eq]; exact .inl ⟨rfl, rfl⟩
  | muted | duplicate | joinOwn | joinPeer | demandOwn | demandAdopted | demandPeer | leaveOwn | leavePeer | holdExpired | enabled
  | disabledCounted | disabledHailing | alarmFell | stuck | quietStep | spacing | isolated | leaveOver | muteOverEnabled
  | muteOverDisabled | silenced | released | prechargeOver | chargeOver =>
    left
    simp [afterVeto, afterAccept, State.enterCensus, State.announced]

theorem ScanInv.of_eq {s t : State} (h : ScanInv s) (scan : t.scan = s.scan) (store : t.store = s.store) : ScanInv t := by
  unfold ScanInv at *
  rwa [scan, store]

/-- Before the first sample of a cycle its accumulators ask nothing. -/
theorem ScanInv.of_start {s : State} (start : s.scan.acc = .start) (store : ∀ c r, s.store.entry c = some r → goodReading c r) : ScanInv s := by
  rw [scanInv_iff, start]
  exact ⟨samples_pos _, fun _ => rfl, fun taken => absurd taken (Nat.lt_irrefl _), store⟩

theorem ScanInv.effect {s u : State} {c : Instr} (h : ScanInv s) (effect : Effect s c u) : ScanInv u := by
  obtain ⟨-, none, some, store⟩ := (scanInv_iff s).1 h
  rcases effect.scan_store with ⟨scan, same⟩ | ⟨input, fell, inside, more, rfl⟩ | ⟨input, fell, r, ends, delivered⟩
  · exact h.of_eq scan same
  · refine (scanInv_iff _).2 ⟨(sampled_count _ _).trans_lt more, fun first => ?_, fun _ => ⟨?_, ?_⟩, store⟩
    · exact absurd ((sampled_count _ _).symm.trans first) (Nat.succ_ne_zero _)
    · exact sampled_held none (fun taken => (some taken).1) (sampleOf_inRange _ _)
    · exact sampled_inside (fun taken => (some taken).2) inside
  · obtain ⟨put, -, acc⟩ := delivered_scan delivered
    refine .of_start acc fun channel r' entry => ?_
    rw [put, show (afterCycle fell r s).store = s.store.put r from rfl, entry_put] at entry
    split_ifs at entry with own
    · cases entry
      rw [own]
      exact ends.goodReading h
    · exact store channel r' entry

/-- Settles O16: a sample joins a cycle inside its window, and a cycle that ends leaves the record that its samples form. -/
theorem scanInvKept : Obligations.ScanInvKept := fun _ _ h run =>
  step_keeps (fun _ _ h => h) (fun _ _ _ _ => .of_start rfl fun channel _ => by cases channel <;> nofun)
    (fun _ _ _ h effect => (h.effect effect).of_eq (by simp) (by simp)) h run

end Sys2Proof.Machine
end

section
/-! PROOFS. The step, EN, the timers and the expiries of rows and credits, command by command, and the obligations on them. -/

namespace Sys2Proof.Machine

set_option Elab.async false

/-! ### The step and what has no expiry (R53, R76, R110) -/

/-- Settles O1, by the definition of a step. -/
theorem stepRunsFront : Obligations.StepRunsFront := by
  refine ⟨fun c rest s front => ?_, fun s empty => ?_⟩ <;> unfold step
  · rw [front]
  · rw [empty]

theorem settled_of_eq {u v : State} (same : u = v) : Settled v u.settle := by
  rw [same]
  exact settle_settled v

/-- A command under a condition that does not hold leaves the state to the end of the step. -/
theorem settled_of_not {p : Prop} [Decidable p] {u s : State} (h : ¬p) : Settled s (if p then u else s).settle := settled_of_eq (if_neg h)

theorem settled_of_not_due {t : Timer} {u s : State} (left : t ≠ .running 0) : Settled s (if t.due then u else s).settle :=
  settled_of_not (mt (due_iff t).1 left)

/-- A credit that stands still, or is short of its setting by the end of the conversion, is not due. -/
theorem credit_not_due {setting rate : Rat} {c : Credit} (short : c.run ≠ .running ∨ c.seconds + rate / 40000 < setting) :
    ¬c.due setting rate = true := by
  rw [creditDue_iff, conversionSeconds, mul_one_div]
  rintro ⟨running, reached⟩
  exact short.elim (fun still => still running) fun below => absurd reached (not_le.2 below)

theorem exec_rowSilence (n : Nat) (s : State) : exec (.rowSilence n) s = .next (match findRow n s.table with
    | some r => if r.silenceDue then s.putRowOf n (some (silenceRow r)) else s
    | none => s).settle := rfl

theorem exec_silentRowRelease (n : Nat) (s : State) : exec (.silentRowRelease n) s = .next (match findRow n s.table with
    | some r => if r.silentReleaseDue then s.putRowOf n none else s
    | none => s).settle := rfl

theorem exec_disputedRowRelease (n : Nat) (s : State) : exec (.disputedRowRelease n) s = .next (match findRow n s.table with
    | some r => if r.disputedReleaseDue then s.putRowOf n none else s
    | none => s).settle := rfl

theorem Row.name_of_live {r : Row} (live : r.live = true) : r.name ≠ .silent ∧ r.name ≠ .disputed := by
  obtain ⟨_, status⟩ := r
  cases status with
  | joining | active => exact ⟨nofun, nofun⟩
  | silent | disputed => cases live

theorem Row.live_of_name {r : Row} (name : r.name = .joining ∨ r.name = .active) : r.live = true := by
  obtain ⟨_, status⟩ := r
  cases status with
  | joining | active => rfl
  | silent | disputed => rcases name with name | name <;> cases name

theorem not_silenceDue {r : Row} (young : r.live = true → r.age < ms 1500) : ¬r.silenceDue = true := by
  rw [silenceDue_iff]
  rintro ⟨name, old⟩
  exact absurd old (not_le.2 (young (Row.live_of_name name)))

theorem not_silentReleaseDue {r : Row} (young : r.name = .silent → r.age < ms 5000) : ¬r.silentReleaseDue = true := by
  rw [silentReleaseDue_iff]
  rintro ⟨silent, old⟩
  exact absurd old (not_le.2 (young silent))

theorem not_disputedReleaseDue {r : Row} (young : ∀ g d, r.status = .disputed g d → d < ms 5000) : ¬r.disputedReleaseDue = true := by
  rw [disputedReleaseDue_iff]
  rintro ⟨g, d, disputed, old⟩
  exact absurd old (not_le.2 (young g d disputed))

/-- Settles O54: an expiry that is not due leaves the state to the end of the step. -/
theorem nothingToExpire : Obligations.NothingToExpire := by
  intro c s idle
  rcases idle with ⟨rfl, left⟩ | ⟨rfl, left⟩ | ⟨rfl, left⟩ | ⟨rfl, now, soon⟩ | ⟨rfl, left⟩ | ⟨rfl, left⟩ | ⟨rfl, left⟩ | ⟨rfl, left⟩ |
    ⟨rfl, left⟩ | ⟨rfl, left⟩ | ⟨rfl, left⟩ | ⟨rfl, left⟩ | ⟨rfl, short⟩ | ⟨rfl, short⟩ | ⟨n, rfl, young⟩ | ⟨n, rfl, young⟩ | ⟨n, rfl, young⟩
  iterate 3 exact ⟨_, rfl, settled_of_not_due left⟩
  · exact ⟨_, rfl, settled_of_not fun due => ((dueByEnd_iff _).1 due).elim now soon⟩
  iterate 8 exact ⟨_, rfl, settled_of_not_due left⟩
  iterate 2 exact ⟨_, rfl, settled_of_not (credit_not_due short)⟩
  · refine ⟨_, exec_rowSilence n s, settled_of_eq ?_⟩
    cases row : findRow n s.table with
    | none => rfl
    | some r => exact if_neg (not_silenceDue (young r row))
  · refine ⟨_, exec_silentRowRelease n s, settled_of_eq ?_⟩
    cases row : findRow n s.table with
    | none => rfl
    | some r => exact if_neg (not_silentReleaseDue (young r row))
  · refine ⟨_, exec_disputedRowRelease n s, settled_of_eq ?_⟩
    cases row : findRow n s.table with
    | none => rfl
    | some r => exact if_neg (not_disputedReleaseDue (young r row))

/-! ### The aging of rows (R12 to R14, R16) -/

/-- Settles O58: an expiry that is due changes its row as R12 to R14 say; a row that is removed is always handed to the share rule. -/
theorem rowsExpire : Obligations.RowsExpire := by
  intro n s r h row
  have removed {v : State} (h : BayInv v) (row : findRow n v.table = some r) :
      Recomputed v.table { v with table := putRow n none v.table } (v.putRowOf n none) := by
    have changed := putRowOf_changed h n none
    rw [RowChanged, row] at changed
    exact changed
  refine ⟨⟨_, _, exec_rowSilence n s, settle_settled _, fun live old => ?_, fun other => ?_⟩,
    ⟨_, _, exec_silentRowRelease n s, settle_settled _, fun silent old => ?_, fun other => ?_⟩,
    ⟨_, _, exec_disputedRowRelease n s, settle_settled _, fun g d disputed old => ?_, fun g d disputed young => ?_, fun other => ?_⟩⟩ <;>
    simp only [row]
  · rw [if_pos ((silenceDue_iff r).2 ⟨live, old⟩), ← silenceRow_live live]
    exact putRowOf_changed h n _
  · exact if_neg (not_silenceDue fun live => (other.resolve_left (Row.name_of_live live).1).resolve_left (Row.name_of_live live).2)
  · rw [if_pos ((silentReleaseDue_iff r).2 ⟨silent, old⟩)]
    exact removed h row
  · exact if_neg (not_silentReleaseDue fun silent => other.resolve_left (not_not.2 silent))
  · rw [if_pos ((disputedReleaseDue_iff r).2 ⟨g, d, disputed, old⟩)]
    exact removed h row
  · refine if_neg (not_disputedReleaseDue fun g' d' disputed' => ?_)
    rw [disputed] at disputed'
    cases disputed'
    exact young
  · refine if_neg (not_disputedReleaseDue fun g d disputed => absurd ?_ other)
    rw [Row.name, disputed]

/-! ### The credits (R143, R144) -/

theorem fullAtTimeout_iff (c : ConfigRecord) (t : ReadingStore) :
    fullAtTimeout c t = true ↔ ∃ r, t.bayv = some r ∧ c.regulation - 100 ≤ r.average := by
  unfold fullAtTimeout ConfigRecord.recharge
  cases t.bayv <;> simp

/-- Settles O59: a bay in FAULT fits every limit, so what the timeout leaves of it stands as it is. -/
theorem creditsExpire : Obligations.CreditsExpire := by
  intro s h gain
  have reaches {setting : Rat} {c : Credit} (running : c.run = .running) (reached : setting ≤ c.seconds + gain) :
      c.due setting (creditRate s.cfg s.commit.limit s.bay) = true := by
    rw [creditDue_iff, conversionSeconds, mul_one_div]
    exact ⟨running, reached⟩
  refine ⟨fun running reached => ⟨_, rfl, settled_of_eq ?_⟩,
    fun running reached => ⟨fullAtTimeout s.cfg s.store, _, rfl, fullAtTimeout_iff _ _, settled_of_eq ?_⟩⟩
  · refine (if_pos (reaches (setting := prechargeSetting) running reached)).trans ?_
    exact putBay_of_fits trivial
  · refine (if_pos (reaches (setting := chargeSetting) running reached)).trans ?_
    exact putBay_of_fits trivial

/-! ### EN (R70, R71) -/

theorem Slot.request_eq (x : Slot) : x.request = if x = .empty then .waiting else x := by cases x <;> rfl

theorem DemandSlot.request_false (x : DemandSlot) : x.request false = if x = .empty then .waiting else x := by
  cases x <;> simp [DemandSlot.request]

theorem enterLeaving_eq {s : State} (h : BayInv s) :
    s.enterLeaving = withNoLimit { s with
      line := { s.line with
        link := .leaving
        queue := { s.line.queue with
          leave := if s.line.queue.leave = .empty then .waiting else s.line.queue.leave
          demand := .empty, reports := [], reportOnLine := false }
        timers := { s.line.timers with
          census := .idle, heartbeat := .idle, spacing := .idle, isolation := .idle, leave := .running (ms 200) } } } := by
  unfold State.enterLeaving
  rw [Slot.request_eq]
  refine zeroCommit_eq ?_
  exact h.congr rfl rfl rfl

/-- Settles O50, by the two branches of the command. -/
theorem enableRises : Obligations.EnableRises := by
  intro s h
  have high : BayInv { s with pins.en := true } := h.congr rfl rfl rfl
  exact ⟨_, rfl, fun enters => settled_of_eq ((if_pos enters).trans (hailFromDown_eq high)), fun stays => settled_of_eq (if_neg stays)⟩

/-- Settles O51, by the link states. -/
theorem enableFalls : Obligations.EnableFalls := by
  intro s h
  have low : BayInv { s with pins.en := false } := h.congr rfl rfl rfl
  refine ⟨_, rfl, fun counted => settled_of_eq ?_, fun link => settled_of_eq ?_, fun link => settled_of_eq ?_⟩ <;> dsimp only
  · rcases counted with link | link <;> rw [link] <;> exact enterLeaving_eq low
  · rw [link]
    exact enterDown_eq low
  · obtain ⟨notCensus, notOn, notHailing⟩ := link
    split
    next census => exact absurd census notCensus
    next on => exact absurd on notOn
    next hailing => exact absurd hailing notHailing
    all_goals rfl

/-! ### The timers of station life (R66 to R69, R72, R73) -/

theorem Timer.due_of_running {t : Timer} (out : t = .running 0) : t.due = true := (due_iff t).2 out

/-- A spacing timer that has run out has a due change announced where it is due (R68). -/
theorem judgeDemand_eq (s : State) :
    s.judgeDemand =
      if s.line.link = .on ∧ s.line.timers.spacing = .idle ∧ demandChangeDue s.bay.localDemand s.line.lastAnnounced = true then
        { s with line.queue.demand := if s.line.queue.demand = .empty then .waiting else s.line.queue.demand }
      else s := by
  unfold State.judgeDemand State.requestDemand
  rw [DemandSlot.request_false]
  by_cases empty : s.line.queue.demand = .empty
  · simp only [empty, true_and]
  · simp only [empty, false_and, and_false, if_false, ite_self]

/-- Settles O52: each timer that has run out, by the link state in which it does. -/
theorem announcingTimersExpire : Obligations.AnnouncingTimersExpire := by
  intro s due filled
  refine ⟨fun out => ⟨_, rfl, fun link => settled_of_eq ?_, fun link => settled_of_eq ?_⟩,
    fun out => ⟨_, rfl, fun link => settled_of_eq ?_, fun link => settled_of_eq ?_⟩,
    fun out => ⟨_, rfl, fun link => settled_of_eq ?_, fun link => settled_of_eq ?_⟩⟩ <;>
    rw [if_pos (Timer.due_of_running out)] <;> dsimp only
  · rw [if_pos link]
    cases slot : s.line.queue.demand <;> simp [State.requestDemand, DemandSlot.request, slot]
  · exact if_neg link
  · rw [if_pos ((counted_iff _).2 link), State.requestDemand, DemandSlot.request_false]
  · exact if_neg fun counted => ((counted_iff _).1 counted).elim link.1 link.2
  · rw [judgeDemand_eq]
    exact if_pos ⟨link.1, rfl, (demandChangeDue_iff _ _).2 link.2⟩
  · rw [judgeDemand_eq]
    exact if_neg fun change => link ⟨change.1, (demandChangeDue_iff _ _).1 change.2.2⟩

/-- Settles O53: each timer that has run out, by the link state in which it does. -/
theorem linkTimersExpire : Obligations.LinkTimersExpire := by
  intro s h
  refine ⟨fun out link => ⟨_, rfl, settled_of_eq ?_⟩, fun out link => ⟨_, rfl, settled_of_eq ?_⟩,
    fun out link => ⟨_, rfl, fun en => settled_of_eq ?_, fun en => settled_of_eq ?_⟩, fun out link => ⟨_, rfl, settled_of_eq ?_⟩,
    fun out link => ⟨_, rfl, settled_of_eq ?_⟩, fun out link => ⟨_, rfl, settled_of_eq ?_⟩⟩ <;>
    rw [if_pos (Timer.due_of_running out)] <;> dsimp only
  · rw [if_pos ((counted_iff _).2 link)]
    exact enterHailing_eq (s := { s with line.timers.isolation := .idle, line.isolated := true }) (h.congr rfl rfl rfl)
  · rw [if_pos link]
    exact endLeaving_eq (s := { s with line.timers.leave := .idle }) (h.congr rfl rfl rfl)
  · rw [if_pos link, if_pos en]
    exact hailFromMute_eq (s := { s with line.timers.mute := .idle }) (h.congr rfl rfl rfl)
  · rw [if_pos link, if_neg (by rw [en]; decide)]
    exact enterDown_eq (s := { s with line.timers.mute := .idle }) (h.congr rfl rfl rfl)
  · exact if_neg fun counted => ((counted_iff _).1 counted).elim link.1 link.2
  · exact if_neg link
  · exact if_neg link

/-! ### The timers of the feed watch and the raise hold (R47, R102, R105, R107) -/

theorem StageChanged.recomputed {k : Nat} {v u : State} (changed : StageChanged k v u) (differs : k ≠ v.feed.stage) :
    Recomputed v.table { v with feed.stage := k } u := by
  unfold StageChanged at changed
  rwa [if_neg differs] at changed

/-- Settles O56: each timer that has run out, the quiet one by the level of ALM and the stage. -/
theorem feedTimersExpire : Obligations.FeedTimersExpire := by
  intro s h
  refine ⟨?_, fun out => ⟨_, rfl, settled_of_eq (if_pos (Timer.due_of_running out)), ?_⟩, fun out => ⟨_, rfl, settled_of_eq (if_pos ?_)⟩,
    fun out => ⟨_, _, rfl, settle_settled _, ?_⟩, fun out => ⟨_, _, rfl, settle_settled _, fun high two => ?_, fun high one => ?_, fun rests => ?_⟩⟩
  · unfold State.drivesAlm
    cases s.feed.drive <;> simp [Timer.isRunning]
  · rw [if_pos (Timer.due_of_running out), State.drivesAlm, State.settle_feed]
    rfl
  · exact (dueByEnd_iff _).2 out
  · rw [if_pos (Timer.due_of_running out)]
    refine putStage_changed ?_ _
    exact h.congr rfl rfl rfl
  · have above : quietAfter (s.feed.stage - 1) = .running (ms 10000) := if_pos (by omega)
    rw [if_pos (Timer.due_of_running out), if_pos ⟨high, by omega⟩, above]
    have restarted : BayInv { s with feed.quiet := .running (ms 10000) } := h.congr rfl rfl rfl
    exact (putStage_changed restarted _).recomputed (show s.feed.stage - 1 ≠ s.feed.stage by omega)
  · rw [if_pos (Timer.due_of_running out), if_pos ⟨high, by omega⟩, one]
    have rested : BayInv { s with feed.quiet := .idle } := h.congr rfl rfl rfl
    exact (putStage_changed rested 0).recomputed (show 0 ≠ s.feed.stage by omega)
  · rw [if_pos (Timer.due_of_running out), if_neg]
    rintro ⟨high, above⟩
    rcases rests with low | zero
    · rw [low] at high; cases high
    · omega

/-- A commit unit with the same L does not reach the bay (R56). -/
theorem putCommit_of_same_limit {c : CommitUnit} {s : State} (same : c.limit = s.commit.limit) : s.putCommit c = { s with commit := c } :=
  if_pos same

/-- Settles O57: L takes T or stays. -/
theorem raiseHoldExpires : Obligations.RaiseHoldExpires := by
  intro s h out
  refine ⟨_, rfl, fun high above => settled_of_eq ?_, fun rests => settled_of_eq ?_⟩ <;> rw [if_pos (Timer.due_of_running out)]
  · rw [if_pos ⟨high, above⟩]
    exact putCommit_eq h _
  · rw [if_neg]
    · exact putCommit_of_same_limit rfl
    · rintro ⟨high, above⟩
      rcases rests with low | below
      · rw [low] at high; cases high
      · exact absurd above (not_lt.2 below)

/-! ### STAT (R156) -/

theorem driven_iff (o : StatOutput) : o.driven = true ↔ o.pattern = .steady ∨ (o.pattern ≠ .off ∧ o.position % 2 = 0) := by
  unfold StatOutput.driven
  cases o.pattern <;> simp

/-- The interval at a position of a pattern, for as long as it lasts. -/
theorem statAt_of_lt {p : Pattern} {k : Nat} (inside : k < (patternIntervals p).length) :
    statAt p k = { pattern := p, position := k, left := .running (ms ((patternIntervals p).getD k 0)) } := by
  simp [statAt, List.getElem?_eq_getElem inside, Timer.start]

theorem advance_of_intervals {o : StatOutput} (some : patternIntervals o.pattern ≠ []) :
    o.advance =
      { pattern := o.pattern, position := (o.position + 1) % (patternIntervals o.pattern).length
        left := .running (ms ((patternIntervals o.pattern).getD ((o.position + 1) % (patternIntervals o.pattern).length) 0)) } := by
  have advanced : o.advance = statAt o.pattern ((o.position + 1) % (patternIntervals o.pattern).length) := by
    unfold StatOutput.advance
    split
    next none => exact absurd none some
    next d ds intervals => rw [intervals]
  rw [advanced, statAt_of_lt (Nat.mod_lt _ (List.length_pos_of_ne_nil some))]

/-- Settles O60: the next interval is the pattern's own, by its position modulo their number. -/
theorem statStepAdvances : Obligations.StatStepAdvances := by
  refine ⟨fun s => driven_iff s.stat, fun s out => ⟨{ s with stat := s.stat.advance }, _, rfl, ?_, rfl, ?_⟩⟩
  · exact settled_of_eq (if_pos (Timer.due_of_running out))
  · dsimp only
    cases pattern : s.stat.pattern with
    | off | steady =>
      dsimp only
      unfold StatOutput.advance
      rw [pattern]
      rfl
    | blink1 | blink4 | twoPulses | threePulses =>
      dsimp only
      rw [advance_of_intervals (by rw [pattern]; nofun), pattern]
      rfl

end Sys2Proof.Machine
end

section
/-! PROOFS. The frame commands: unheard, out of range, under the own number, and accepted, kind by kind; the obligations on them. -/

namespace Sys2Proof.Machine

set_option Elab.async false

/-! ### The idle line (R60, R81 to R83) -/

theorem seeIdle_eq (s : State) : s.seeIdle = { s with
    wire := { idle := true, tx := none }
    line := { s.line with
      queue := s.line.queue.requeue, admitted := if s.line.link = .hailing then true else s.line.admitted } } := by
  have admits : (s.line.admitted || s.line.link == .hailing) = if s.line.link = .hailing then true else s.line.admitted := by
    split_ifs with link
    · simp [link]
    · simp [beq_eq_false_iff_ne.2 link]
  unfold State.seeIdle
  rw [admits]

/-- Settles O39: both commands see the idle, the second only where it is an event. -/
theorem idleAdmitsAndOffers : Obligations.IdleAdmitsAndOffers := by
  rintro c s (rfl | rfl)
  · exact ⟨_, rfl, fun _ => settled_of_eq (seeIdle_eq s), nofun⟩
  · refine ⟨_, rfl, fun waits => ?_, fun _ other => if_neg other⟩
    rw [if_pos (waits.resolve_left nofun)]
    exact settled_of_eq (seeIdle_eq s)

/-! ### Any frame command (R74, R89, R92, R97) -/

/-- A frame command accepts its frame with what its kind delivers, and ends the step. -/
theorem exec_frame {c : Instr} {f : Frame} (frame : c.frame? = some f) (s : State) :
    ∃ deliver, exec c s = .next (s.acceptFrame f deliver).settle := by
  cases c <;> cases frame <;> exact ⟨_, rfl⟩

theorem takesLine_eq_false_iff (s : State) :
    s.takesLine = false ↔
      s.line.link = .down ∨ s.line.link = .mute ∨ s.line.link = .barred ∨ (s.line.link = .hailing ∧ s.line.admitted = false) := by
  unfold State.takesLine
  cases s.line.link <;> simp

/-- Settles O40: a station that takes no part only sees the frame end. -/
theorem unheardFrame : Obligations.UnheardFrame := by
  refine ⟨takesLine_eq_false_iff, fun c s command deaf => ?_⟩
  rcases command with isFrame | ⟨rx, rfl⟩
  · obtain ⟨f, frame⟩ := Option.isSome_iff_exists.1 isFrame
    obtain ⟨deliver, run⟩ := exec_frame frame s
    exact ⟨_, run, settled_of_eq (acceptFrame_unheard f deliver deaf)⟩
  · exact ⟨_, rfl, settled_of_eq (if_neg (by rw [deaf]; decide))⟩

theorem acceptFrame_outOfRange {s : State} {f : Frame} (takes : s.takesLine = true) (outside : frameInRange f = false)
    (deliver : Bool → State → State) : s.acceptFrame f deliver = s.lineEnds.vetoWindow true := by
  simp [State.acceptFrame, takes, outside]

/-- A veto of this station's own: counted below 8, and MUTE at 8 (R73, R95). -/
theorem ownVeto_settled {s : State} (h : BayInv s) :
    (s.line.vetoRun < 7 → Settled { afterVeto s with line.vetoRun := s.line.vetoRun + 1 } (s.lineEnds.vetoWindow true).settle) ∧
      (7 ≤ s.line.vetoRun → Settled (muteState (afterVeto s)) (s.lineEnds.vetoWindow true).settle) := by
  rw [vetoWindow_true]
  refine ⟨fun below => settled_of_eq (if_neg ?_), fun reached => settled_of_eq ?_⟩
  · simp only [vetoRunLimit]; omega
  · rw [if_pos (by simp only [vetoRunLimit]; omega)]
    refine enterMute_eq ?_
    exact h.congr rfl rfl rfl

/-- Settles O41: such a frame is a veto of this station's own. -/
theorem frameOutOfRange : Obligations.FrameOutOfRange := by
  intro c s f h frame takes outside
  obtain ⟨deliver, run⟩ := exec_frame frame s
  rw [acceptFrame_outOfRange takes outside] at run
  exact ⟨_, run, ownVeto_settled h⟩

/-- Settles O42: the frame is discarded for the entry of BARRED. -/
theorem duplicateBars : Obligations.DuplicateBars := by
  intro c s f h frame accepts foreign number
  obtain ⟨deliver, run⟩ := exec_frame frame s
  obtain ⟨-, duplicate, -⟩ := acceptFrame_accepted accepts deliver
  refine ⟨_, run, settled_of_eq ((duplicate foreign number).trans (enterBarred_eq ?_))⟩
  exact h.congr rfl rfl rfl

/-- An accepted frame of this station's own, or of a peer, is delivered. -/
theorem acceptFrame_delivers {s : State} {f : Frame} {own : Bool} (accepts : Accepts s f) (origin : Origin s f own)
    (deliver : Bool → State → State) : s.acceptFrame f deliver = deliver own (afterAccept own s) := by
  obtain ⟨whenOwn, -, whenPeer⟩ := acceptFrame_accepted accepts deliver
  rcases origin with ⟨rfl, own⟩ | ⟨rfl, peer⟩
  · exact whenOwn own
  · exact whenPeer peer

theorem isStationSender_of_accepts {s : State} {n : Sender} {p : Payload} (accepts : Accepts s ⟨n, p⟩) (station : n.toNat ≤ 16) :
    isStationSender n = true := by
  obtain ⟨-, inRange⟩ := accepts
  simp only [frameInRange, Bool.and_eq_true, bne_iff_ne] at inRange
  refine (isStationSender_iff n).2 ⟨Nat.pos_of_ne_zero fun zero => inRange.1 (BitVec.eq_of_toNat_eq zero), station⟩

theorem isStationSender_of_observer {n : Sender} (observer : 17 ≤ n.toNat) : isStationSender n = false := by
  rw [Bool.eq_false_iff, Ne, isStationSender_iff]
  omega

/-! ### Frames that go to no block (R4, R17, R18, R90, R93) -/

theorem complete_eq (q : TxQueue) : q.complete =
    { join := if q.join = .onLine then .empty else q.join
      leave := if q.leave = .onLine then .empty else q.leave
      demand := match q.demand with
        | .onLine renewed => if renewed = true then .waiting else .empty
        | .waiting => .waiting
        | .empty => .empty
      reports := if q.reportOnLine = true then q.reports.drop 1 else q.reports
      reportOnLine := false } := by
  obtain ⟨join, demand, leave, reports, reportOnLine⟩ := q
  have slot (x : Slot) : x.complete = if x = .onLine then .empty else x := by cases x <;> rfl
  have demandSlot : demand.complete = match demand with
      | .onLine renewed => if renewed = true then .waiting else .empty
      | .waiting => .waiting
      | .empty => .empty := by
    rcases demand with _ | _ | (_ | _) <;> rfl
  simp only [TxQueue.complete, slot, demandSlot, List.drop_one]

section NoBlock

variable {s : State} {n : Sender} {own : Bool}

theorem takeJoin_of_observer (observer : 17 ≤ n.toNat) (b : JoinBody) (v : State) : v.takeJoin n b own = v := by
  simp only [State.takeJoin, isStationSender_of_observer observer]

theorem takeDemandFrame_of_observer (observer : 17 ≤ n.toNat) (b : DemandBody) (v : State) : v.takeDemandFrame n b own = v := by
  simp only [State.takeDemandFrame, isStationSender_of_observer observer]

theorem takeLeave_of_observer (observer : 17 ≤ n.toNat) (b : LeaveBody) (v : State) : v.takeLeave n b own = v := by
  simp only [State.takeLeave, isStationSender_of_observer observer]

theorem takeJoin_elsewhere {v : State} (link : v.line.link ≠ .hailing) (b : JoinBody) : v.takeJoin n b true = v := by
  unfold State.takeJoin
  split
  next => rfl
  next hailing => exact absurd hailing link
  next => rfl
  next no => cases no

theorem takeLeave_elsewhere {v : State} (link : v.line.link ≠ .leaving) (b : LeaveBody) : v.takeLeave n b true = v := by
  unfold State.takeLeave
  split
  next => rfl
  next leaving => exact absurd leaving link
  next => rfl
  next no => cases no

theorem takeQuery_own (q : QueryBody) (v : State) : v.takeQuery n q true = v := if_neg nofun

end NoBlock

/-- Settles O44: what is delivered is taken by no block. -/
theorem acceptedWithoutEffect : Obligations.AcceptedWithoutEffect := by
  refine ⟨complete_eq, fun c s f own frame accepts origin kind => ?_⟩
  have taken {deliver : Bool → State → State} (run : exec c s = .next (s.acceptFrame f deliver).settle)
      (none : deliver own (afterAccept own s) = afterAccept own s) : ∃ t, exec c s = .next t ∧ Settled (afterAccept own s) t :=
    ⟨_, run, settled_of_eq ((acceptFrame_delivers accepts origin deliver).trans none)⟩
  rcases kind with ⟨n, b, rfl⟩ | ⟨k, n, bs, rfl⟩ | ⟨⟨n, b, rfl⟩ | ⟨n, b, rfl⟩ | ⟨n, b, rfl⟩, observer⟩ | ⟨⟨n, b, rfl⟩, rfl, link⟩ |
    ⟨⟨n, b, rfl⟩, rfl, link⟩ | ⟨⟨n, b, rfl⟩, rfl⟩ <;> cases frame
  · exact taken rfl rfl
  · exact taken rfl rfl
  · exact taken rfl (takeJoin_of_observer observer b _)
  · exact taken rfl (takeDemandFrame_of_observer observer b _)
  · exact taken rfl (takeLeave_of_observer observer b _)
  · exact taken rfl (takeJoin_elsewhere (v := afterAccept true s) link b)
  · exact taken rfl (takeLeave_elsewhere (v := afterAccept true s) link b)
  · exact taken rfl (takeQuery_own b _)

/-! ### JOIN, DEMAND and LEAVE of stations (R6 to R9, R17, R18) -/

section Stations

variable {s : State} {n : Sender} (station : isStationSender n = true)

include station

theorem takeJoin_peer (b : JoinBody) : s.takeJoin n b false = s.putRowOf n.toNat (joinRow n.toNat b (findRow n.toNat s.table)) := by
  simp only [State.takeJoin, station]

theorem takeJoin_own (link : s.line.link = .hailing) (b : JoinBody) : s.takeJoin n b true = s.enterCensus n.toNat b := by
  simp only [State.takeJoin, station, link]

theorem takeLeave_peer (b : LeaveBody) : s.takeLeave n b false = s.putRowOf n.toNat (leaveRow b (findRow n.toNat s.table)) := by
  simp only [State.takeLeave, station]

theorem takeLeave_own (link : s.line.link = .leaving) (b : LeaveBody) : s.takeLeave n b true = (s.putRowOf n.toNat none).endLeaving := by
  simp only [State.takeLeave, station, link]

theorem takeDemandFrame_peer (b : DemandBody) : s.takeDemandFrame n b false = s.takeDemand n.toNat b := by
  simp only [State.takeDemandFrame, station]

theorem takeDemandFrame_own (link : s.line.link = .census ∨ s.line.link = .on) (b : DemandBody) :
    s.takeDemandFrame n b true = (s.announced b).takeDemand n.toNat b := by
  rcases link with link | link <;> simp only [State.takeDemandFrame, station, link]

theorem takeDemandFrame_adopts (link : s.line.link = .hailing ∨ s.line.link = .leaving) (b : DemandBody) :
    s.takeDemandFrame n b true = s.adopt b := by
  rcases link with link | link <;> simp only [State.takeDemandFrame, station, link]

end Stations

theorem BayInv.afterAccept {s : State} (h : BayInv s) (own : Bool) : BayInv (afterAccept own s) := h.congr rfl rfl rfl

/-- Settles O45: a row change at the peer's row, or the entry of CENSUS and the own row. -/
theorem joinAccepted : Obligations.JoinAccepted := by
  intro n b s h accepts range
  have station := isStationSender_of_accepts accepts range
  refine ⟨fun peer => ⟨_, _, rfl, settle_settled _, ?_⟩, fun own link => ⟨_, _, rfl, settle_settled _, ?_⟩⟩
  · rw [acceptFrame_delivers accepts (.inr ⟨rfl, peer⟩), takeJoin_peer station]
    exact putRowOf_changed (h.afterAccept false) _ _
  · rw [acceptFrame_delivers accepts (.inl ⟨rfl, own⟩), takeJoin_own station (s := afterAccept true s) link]
    refine putRowOf_changed ?_ _ _
    exact h.congr rfl rfl rfl

/-- Settles O48: a row change at the peer's row, or the removal of the own one and the end of LEAVING. -/
theorem leaveAccepted : Obligations.LeaveAccepted := by
  intro n b s h accepts range
  have station := isStationSender_of_accepts accepts range
  refine ⟨fun peer => ⟨_, _, rfl, settle_settled _, ?_⟩, fun own link => ⟨(afterAccept true s).putRowOf n.toNat none, _, rfl, ?_, ?_⟩⟩
  · rw [acceptFrame_delivers accepts (.inr ⟨rfl, peer⟩), takeLeave_peer station]
    exact putRowOf_changed (h.afterAccept false) _ _
  · refine settled_of_eq ?_
    rw [acceptFrame_delivers accepts (.inl ⟨rfl, own⟩), takeLeave_own station (s := afterAccept true s) link]
    exact endLeaving_eq (putRowOf_bayInv (h.afterAccept true) _ _)
  · exact putRowOf_changed (h.afterAccept true) _ _

/-- Table and feed watch take a DEMAND in one of the two orders, where both act (R36, R93; log 9). -/
theorem takeDemand_taken {v : State} {b : DemandBody} (h : BayInv v) (small : b.quiet.toNat ≤ 100) (n : Nat) :
    DemandTaken n b v (v.takeDemand n b) := by
  unfold DemandTaken State.takeDemand
  by_cases above : v.feed.stage < b.stage.toNat
  · have h' : BayInv { v with choices := v.choices + 1 } := h.congr rfl rfl rfl
    rw [if_neg (not_le.2 above), if_pos above]
    dsimp only
    split_ifs
    · exact .inl ⟨_, (adopt_adopted h' b).2 above, putRowOf_changed (bayInv_closed.adopt h' small) _ _⟩
    · refine .inr ⟨_, putRowOf_changed h' _ _, (adopt_adopted (putRowOf_bayInv h' _ _) b).2 ?_⟩
      rw [State.putRowOf_feed]
      exact above
  · rw [if_pos (not_lt.1 above), if_neg above]
    exact putRowOf_changed h _ _

/-- Settles O46: a peer's DEMAND goes to the share table and the feed watch. -/
theorem peerDemandAccepted : Obligations.PeerDemandAccepted := by
  intro n b s h accepts range peer
  have station := isStationSender_of_accepts accepts range
  refine ⟨_, _, rfl, settle_settled _, ?_⟩
  rw [acceptFrame_delivers accepts (.inr ⟨rfl, peer⟩), takeDemandFrame_peer station]
  exact takeDemand_taken (h.afterAccept false) accepts.stage_quiet_le.2 _

/-- Settles O47: an own DEMAND goes to station life, share table and feed watch in CENSUS and ON, and to the feed watch alone in HAILING and
LEAVING. -/
theorem ownDemandAccepted : Obligations.OwnDemandAccepted := by
  intro n b s h accepts range own
  have station := isStationSender_of_accepts accepts range
  refine ⟨_, _, rfl, settle_settled _, fun link => ?_, fun link => ?_⟩ <;> rw [acceptFrame_delivers accepts (.inl ⟨rfl, own⟩)]
  · rw [takeDemandFrame_own station (s := afterAccept true s) link]
    refine takeDemand_taken ?_ accepts.stage_quiet_le.2 _
    exact h.congr rfl rfl rfl
  · rw [takeDemandFrame_adopts station (s := afterAccept true s) link]
    exact adopt_adopted (h.afterAccept true) b

/-! ### QUERY (R23, R39, R158 to R162) -/

theorem channelOfCode_channelCode (c : Channel) : channelOfCode (channelCode c) = some c := by cases c <;> rfl

theorem findRow_of_mem {rows : List Row} (ordered : rows.Pairwise fun a b => a.station < b.station) {r : Row} (hr : r ∈ rows) :
    findRow r.station rows = some r := by
  induction ordered with
  | nil => cases hr
  | @cons a rows before _ ih =>
    rw [findRow_cons]
    rcases List.mem_cons.1 hr with rfl | later
    · exact if_pos rfl
    · rw [if_neg (before r later).ne, ih later]

/-- The starved flag is the mark of the own row, which is live where it is marked (R39). -/
theorem starvedFlag_iff {s : State} (wf : TableInv s) :
    s.starvedFlag = true ↔ ∃ r ∈ s.table, s.ownNumber = some r.station ∧ r.live = true ∧ r.starved = true := by
  unfold State.starvedFlag
  constructor
  · intro flag
    cases own : s.ownRow with
    | none => rw [own] at flag; cases flag
    | some r =>
      rw [own] at flag
      obtain ⟨n, number, found⟩ := Option.bind_eq_some_iff.1 own
      obtain ⟨mem, station⟩ := findRow_some found
      exact ⟨r, mem, number.trans (congrArg some station.symm), Row.live_of_starved flag, flag⟩
  · rintro ⟨r, mem, number, -, starved⟩
    have own : s.ownRow = some r := by
      rw [State.ownRow, number]
      exact findRow_of_mem wf.1 mem
    rw [own]
    exact starved

theorem takeQuery_answered {s : State} {n : Sender} {q : QueryBody} {r : ReportRecord}
    (answers : s.ownNumber = some q.target.toNat ∧ (s.line.link = .census ∨ s.line.link = .on) ∧ s.line.queue.reports.length < 4)
    (snapshot : s.snapshot q = some r) :
    s.takeQuery n q false = { s with line.queue.reports := s.line.queue.reports ++ [{ requester := n, content := r }] } := by
  obtain ⟨target, link, room⟩ := answers
  unfold State.takeQuery
  rw [if_pos ⟨rfl, target, (counted_iff _).2 link, room⟩, snapshot]

theorem takeQuery_discarded {s : State} {n : Sender} {q : QueryBody}
    (other : ¬(s.ownNumber = some q.target.toNat ∧ (s.line.link = .census ∨ s.line.link = .on) ∧ s.line.queue.reports.length < 4)) :
    s.takeQuery n q false = s :=
  if_neg fun ⟨_, target, counted, room⟩ => other ⟨target, (counted_iff _).1 counted, room⟩

/-- Settles O49: the REPORT is the snapshot of the moment, item by item. -/
theorem queryAccepted : Obligations.QueryAccepted := by
  intro n q s wf accepts peer
  have delivered := acceptFrame_delivers accepts (.inr ⟨rfl, peer⟩) (State.takeQuery n q)
  refine ⟨_, rfl, ?_⟩
  intro answers v ownMark queued
  have reported {r : ReportRecord} (a : answers) (snapshot : v.snapshot q = some r) :
      Settled (queued r) (s.acceptFrame _ (State.takeQuery n q)).settle :=
    settled_of_eq (delivered.trans (takeQuery_answered (s := v) a snapshot))
  refine ⟨fun other => settled_of_eq (delivered.trans (takeQuery_discarded (s := v) other)), fun a status m mark => ?_, fun a row none => ?_,
    fun a row r some => ?_, fun a reading c code none => ?_, fun a reading c r code some => ?_⟩ <;> refine reported a ?_
  · have flag : v.starvedFlag = m := Bool.eq_iff_iff.2 ((starvedFlag_iff (s := v) wf).trans mark.symm)
    simp only [State.snapshot, status, State.statusRecord, flag]
    rfl
  · simp only [State.snapshot, row, show v.table = s.table from rfl, none]
    rfl
  · simp only [State.snapshot, row, show v.table = s.table from rfl, some]
    rfl
  · simp only [State.snapshot, reading, ← code, channelOfCode_channelCode, Option.map_some, show v.store = s.store from rfl, none]
    rfl
  · simp only [State.snapshot, reading, ← code, channelOfCode_channelCode, Option.map_some, show v.store = s.store from rfl, some]
    rfl

end Sys2Proof.Machine
end

section
/-! PROOFS. What passes with a conversion inside its cycle, and what a strap, BAYV or BAYI record does: the last of the scan's obligations. -/

namespace Sys2Proof.Machine

-- Proofs in parallel threads reserve more address space than the check's memory limit admits.
set_option Elab.async false

/-! ### A strap record (R150) -/

theorem deliver_of_strapa {r : Reading} (channel : r.channel = .strapa) (s : State) :
    s.deliver r = { s with straps.sa := some (strapResult r) } := by
  simp only [State.deliver, channel]

theorem deliver_of_strapb {r : Reading} (channel : r.channel = .strapb) (s : State) :
    s.deliver r = { s with straps.sb := some (strapResult r) } := by
  simp only [State.deliver, channel]

/-- Settles O37: the record's average, min and max are never negative, and the decoder keeps its strap's result by the channel. -/
theorem strapRecord : Obligations.StrapRecord := by
  intro input fell s r scan released pass ends
  have range : (channelRange s.scan.pos.channel).1 = 0 := by
    rcases pass with at_s1 | at_s2
    · rw [at_s1]; rfl
    · rw [at_s2]; rfl
  obtain ⟨min_nonneg, max_nonneg, average_nonneg⟩ := ends.nonneg scan range
  obtain ⟨t, run, settled⟩ := exec_conversion_ended fell released ends
  refine ⟨t, run, strapResult r, (inBand_iff average_nonneg _).2 rfl, strapResult_stable_iff min_nonneg max_nonneg,
    fun s1 => ?_, fun s2 => ?_⟩
  · have channel : r.channel = .strapa := by rw [ends.channel_eq, s1]; rfl
    rwa [deliver_of_strapa channel] at settled
  · have channel : r.channel = .strapb := by rw [ends.channel_eq, s2]; rfl
    rwa [deliver_of_strapb channel] at settled

/-! ### A BAYV record (R127, R128, R130, R131, R136, R145) -/

/-- A charging bay meets a limit below 2 units with HOLD (R131). -/
theorem followLimit_of_charging {b : BayController} {p : ChargePhase} (phase : b.phase = .charging p) (limit : Nat) (full : Bool) :
    b.followLimit limit full = if limit < 2 then heldBay b else b := by
  have pause (c : Credit) : c.pause = { c with run := if c.run = .running then .paused else c.run } := by
    unfold Credit.pause
    split_ifs <;> rfl
  simp only [BayController.followLimit, heldBay, phase, pause]

theorem overvoltage_bay_eq (b : BayController) :
    b.overvoltage =
      if b.phase = .vacant then b
      else if b.phase.name = .fault then { b with phase := .fault .bayOvervoltage }
      else faulted .bayOvervoltage b := by
  unfold BayController.overvoltage
  cases phase : b.phase with
  | vacant => simp
  | fault cause =>
    cases cause with
    | bayOvervoltage => simp [Phase.name, ← phase]
    | prechargeTimeout | chargeTimeout full | dieHot | packIdInvalid => simp [Phase.name]
  | qualify | charging p | done | hold p => simp [Phase.name_eq_fault_iff, enterFault_eq]

/-- An overvoltage leaves VACANT or FAULT, and L has nothing to say to either. -/
theorem followLimit_overvoltage (b : BayController) (limit : Nat) (full : Bool) : b.overvoltage.followLimit limit full = b.overvoltage := by
  refine followLimit_of_fits ?_ full
  rw [overvoltage_bay_eq]
  split_ifs with vacant fault
  · rw [vacant]; trivial
  · trivial
  · trivial

/-- What a BAYV record that ended LIMIT leaves of the bay, L taken in (R136). -/
theorem followLimit_of_limit {r : Reading} (ending : r.ending = .limit) (c : ConfigRecord) (limit : Nat) (full : Bool) (b : BayController) :
    b.overvoltage.followLimit limit full = bayAfterVoltage c limit r b := by
  rw [followLimit_overvoltage, overvoltage_bay_eq, bayAfterVoltage, if_pos ending]

/-- A pack that qualifies into a charging phase under an L too small to charge with is held at once (R127, R131). -/
theorem followLimit_of_qualify {r : Reading} {b : BayController} (ending : r.ending = .complete) (phase : b.phase = .qualify)
    (c : ConfigRecord) (limit : Nat) (full : Bool) : (b.takeVoltage c r.average).followLimit limit full = bayAfterVoltage c limit r b := by
  unfold BayController.takeVoltage bayAfterVoltage ConfigRecord.recharge
  simp only [phase, ending, reduceCtorEq, if_true, if_false]
  by_cases low : r.average < 3000
  · simp only [if_pos low]
    exact followLimit_of_charging rfl limit full
  · simp only [if_neg low]
    by_cases charged : c.regulation - 100 ≤ r.average
    · simp only [if_pos charged, if_neg (Int.not_lt.2 charged)]
      rfl
    · simp only [if_neg charged, if_pos (Int.not_le.1 charged)]
      exact followLimit_of_charging rfl limit full

theorem takeVoltage_eq {r : Reading} {b : BayController} (ending : r.ending = .complete) (phase : b.phase ≠ .qualify)
    (c : ConfigRecord) (limit : Nat) : b.takeVoltage c r.average = bayAfterVoltage c limit r b := by
  unfold BayController.takeVoltage bayAfterVoltage ConfigRecord.recharge ConfigRecord.taperEntry
  simp only [ending, reduceCtorEq, if_false]
  cases was : b.phase with
  | qualify => exact absurd was phase
  | charging p => cases p <;> simp [Credit.stop, Credit.start, capped, ConfigRecord.foldbackCap]
  | fault cause =>
    cases cause with
    | chargeTimeout full => cases full <;> simp [enterQualify_eq]
    | prechargeTimeout | bayOvervoltage | dieHot | packIdInvalid => simp
  | done => simp [enterQualify_eq]
  | vacant | hold p => simp

/-- Outside QUALIFY a record lets the bay into no charging phase that it did not charge in before, and out of HOLD never. -/
theorem takeVoltage_fits {b : BayController} {limit : Nat} (fits : b.phase.Fits limit) (phase : b.phase ≠ .qualify) (c : ConfigRecord)
    (average : Int) : (b.takeVoltage c average).phase.Fits limit := by
  have kept := fits
  unfold BayController.takeVoltage
  cases was : b.phase with
  | qualify => exact absurd was phase
  | charging p =>
    rw [was] at fits
    cases p with
    | precharge | fast =>
      dsimp only
      split_ifs
      exacts [fits, kept]
    | taper => exact kept
  | fault cause =>
    cases cause with
    | chargeTimeout full =>
      cases full with
      | true =>
        dsimp only
        split_ifs
        exacts [trivial, kept]
      | false => exact kept
    | prechargeTimeout | bayOvervoltage | dieHot | packIdInvalid => exact kept
  | done =>
    dsimp only
    split_ifs
    exacts [trivial, kept]
  | vacant | hold p => exact kept

/-- What a BAYV record that ended COMPLETE leaves of a bay whose phase fits L, L taken in. -/
theorem followLimit_of_complete {r : Reading} {b : BayController} {limit : Nat} (ending : r.ending = .complete) (fits : b.phase.Fits limit)
    (c : ConfigRecord) (full : Bool) : (b.takeVoltage c r.average).followLimit limit full = bayAfterVoltage c limit r b := by
  by_cases phase : b.phase = .qualify
  · exact followLimit_of_qualify ending phase c limit full
  · rw [followLimit_of_fits (takeVoltage_fits fits phase c r.average) full, takeVoltage_eq ending phase]

theorem takeBayv_eq (r : Reading) {s : State} (fits : s.bay.phase.Fits s.commit.limit) :
    s.takeBayv r = withBay ((bayAfterVoltage s.cfg s.commit.limit r s.bay).demanding s.cfg) s := by
  unfold State.takeBayv
  cases ending : r.ending with
  | limit =>
    dsimp only
    rw [putBay_eq, followLimit_of_limit ending s.cfg]
  | complete =>
    dsimp only
    rw [putBay_eq, followLimit_of_complete ending fits]

theorem deliver_of_bayv {r : Reading} (channel : r.channel = .bayv) (s : State) : s.deliver r = s.takeBayv r := by
  simp only [State.deliver, channel]

/-- Settles O33: the record's judgement and then L's come to the one effect that the rules of the phase state. -/
theorem bayvRecord : Obligations.BayvRecord := by
  intro input fell s r inv released bayv ends
  obtain ⟨t, run, settled⟩ := exec_conversion_ended fell released ends
  rw [deliver_of_bayv (ends.channel_eq.trans bayv), takeBayv_eq (s := afterCycle fell r s) r inv.fits_afterCycle] at settled
  exact ⟨t, run, settled⟩

/-! ### A BAYI record (R129) -/

/-- The average times 1.25, in units of 25 mA, rounded up. -/
theorem taperUnits_eq (average : Int) : taperUnits average = (5 * average.toNat + 99) / 100 := by
  unfold taperUnits
  omega

theorem capped_taperUnits (c : ConfigRecord) (foldback : Bool) (average : Int) :
    capped c foldback (min (taperUnits average) c.fast) = taperDemand c foldback average := by
  rw [taperUnits_eq]
  rfl

/-- The bay in TAPER with a TAPER value just taken, which stands as its local demand (R129). -/
def BayController.tapered (value : Nat) (b : BayController) : BayController := { b with taperValue := value, localDemand := value }

theorem judgeTermination_eq {b : BayController} (phase : b.phase = .charging .taper) (c : ConfigRecord) (limit : Nat) (average : Int) :
    b.judgeTermination c limit average = bayAfterCurrent c limit average b := by
  have free : bayThrottled c limit b = false ↔ b.localDemand * 25 ≤ 25 * bayLimit c limit b := by
    rw [← Bool.not_eq_true, bayThrottled_iff phase]
    omega
  have below : average < c.termination ↔ average < (c.fast * 25 / 10 : Nat) := Iff.rfl
  unfold BayController.judgeTermination bayAfterCurrent
  simp only [free, below]
  by_cases first : b.termCount = 0
  · simp [first]
  · simp [first, Nat.one_le_iff_ne_zero.2 first, Credit.stop]

theorem bayAfterCurrent_fits {b : BayController} {limit : Nat} (fits : b.phase.Fits limit) (c : ConfigRecord) (average : Int) :
    (bayAfterCurrent c limit average b).phase.Fits limit := by
  unfold bayAfterCurrent
  split_ifs
  exacts [fits, trivial, fits]

theorem takeBayi_of_taper {s : State} (phase : s.bay.phase = .charging .taper) (fits : s.bay.phase.Fits s.commit.limit) (r : Reading) :
    s.takeBayi r =
      withBay ((bayAfterCurrent s.cfg s.commit.limit r.average (s.bay.tapered (taperDemand s.cfg s.bay.foldback r.average))).demanding s.cfg)
        (withBay (s.bay.tapered (taperDemand s.cfg s.bay.foldback r.average)) s) := by
  have handed (value : Nat) : s.putBay { s.bay with taperValue := value } = withBay (s.bay.tapered value) s := by
    rw [putBay_of_fits (b := { s.bay with taperValue := value }) fits]
    simp only [BayController.demanding, BayController.tapered, phaseDemand, phase, chargeDemand]
  have taper (value : Nat) : (withBay (s.bay.tapered value) s).bay.phase = .charging .taper := phase
  unfold State.takeBayi
  split
  next =>
    dsimp only
    rw [handed, capped_taperUnits, taper]
    dsimp only
    rw [judgeTermination_eq (taper _)]
    exact putBay_of_fits (s := withBay _ s) (bayAfterCurrent_fits (b := s.bay.tapered _) fits _ _)
  next other => exact absurd phase other

theorem takeBayi_of_other {s : State} (phase : s.bay.phase ≠ .charging .taper) (r : Reading) : s.takeBayi r = s := by
  unfold State.takeBayi
  split
  next taper => exact absurd taper phase
  next => rfl

theorem deliver_of_bayi {r : Reading} (channel : r.channel = .bayi) (s : State) : s.deliver r = s.takeBayi r := by
  simp only [State.deliver, channel]

/-- Settles O34: in TAPER the bay's limit, L and the configuration at the judgement are those at the first hand-over. -/
theorem bayiRecord : Obligations.BayiRecord := by
  intro input fell s r inv released bayi ends v value b
  obtain ⟨t, run, settled⟩ := exec_conversion_ended fell released ends
  rw [deliver_of_bayi (ends.channel_eq.trans bayi)] at settled
  refine ⟨t, run, fun other => ?_, fun taper => ?_⟩
  · rwa [takeBayi_of_other (s := afterCycle fell r s) other] at settled
  · rwa [takeBayi_of_taper (s := afterCycle fell r s) taper inv.fits_afterCycle] at settled

/-! ### The sources of the pins (R113) -/

theorem sourceMicroamps_of_converted {s : State} (released : s.power = .released) (pin : Channel) (converted : s.scan.pos.channel = pin) :
    s.sourceMicroamps pin =
      if pin = .pid then 10 else if pin = .strapa ∨ pin = .strapb ∨ pin = .strapc then 20 else 0 := by
  simp only [State.sourceMicroamps, State.connected, released, converted, if_true]
  cases pin <;> rfl

theorem sourceMicroamps_of_other {s : State} {pin : Channel} (other : s.power = .held ∨ s.scan.pos.channel ≠ pin) :
    s.sourceMicroamps pin = 0 := by
  refine if_neg fun connected => ?_
  unfold State.connected at connected
  rcases other with held | converted
  · rw [held] at connected
    cases connected
  · split at connected
    · cases connected
    · exact converted (Option.some.inj connected)

/-! ### The scan's list and its store (R117, R118, R120) -/

theorem scanList_eq (p : ScanPos) : (p.channel, p.samples, p.next) = scanList p := by cases p <;> rfl

theorem entry_eq (store : ReadingStore) (c : Channel) : store.entry c = storeEntry store c := by cases c <;> rfl

/-! ### The passing of time (R113, R141) -/

theorem Timer.tick_oneLess (timer : Timer) : OneLess timer timer.tick := by
  refine ⟨fun idle => by rw [idle]; rfl, fun left running => by rw [running]; rfl⟩

/-- A row's ages run on to 5,000 ms, and nothing else of it changes (R2). -/
theorem ageRow_ages (r : Row) :
    ageRow r = { r with age := (ageRow r).age, status := (ageRow r).status } ∧ (ageRow r).age = min (r.age + 1) 200000 ∧
    (r.name ≠ .disputed → (ageRow r).status = r.status) ∧
    ∀ f d, r.status = .disputed f d → (ageRow r).status = .disputed f (min (d + 1) 200000) := by
  obtain ⟨station, status, tag, sb, sc, demand, age⟩ := r
  cases status <;> simp [ageRow, Row.name, ms, releaseMs]

theorem Credit.gain_of_running {c : Credit} (running : c.run = .running) (setting rate : Rat) :
    c.gain setting rate = { c with seconds := min setting (c.seconds + rate / 40000) } := by
  rw [Credit.gain, if_pos running, conversionSeconds, mul_one_div]

theorem Credit.gain_of_stopped {c : Credit} (stopped : c.run ≠ .running) (setting rate : Rat) : c.gain setting rate = c := if_neg stopped

theorem tick_timePassed (s : State) : TimePassed s s.tick := by
  have timer := Timer.tick_oneLess
  refine ⟨rfl, rfl, timer _, timer _, timer _, timer _, timer _, timer _, timer _, timer _, timer _, timer _, timer _, timer _, ?_,
    fun stopped => Credit.gain_of_stopped stopped _ _, fun stopped => Credit.gain_of_stopped stopped _ _,
    fun running => Credit.gain_of_running running _ _, fun running => Credit.gain_of_running running _ _⟩
  exact List.forall₂_map_right_iff.2 (List.forall₂_same.2 fun row _ => ageRow_ages row)

/-! ### A conversion while the part is held, and one inside its cycle (R114, R122) -/

theorem exec_conversion_held {s : State} (held : s.power = .held) (input : ConversionInput) : exec (.conversion input) s = .next s := by
  simp only [exec, execConversion, held]

/-- Settles O30: each clause is a law of its own part of the scan; the conversion inside a cycle is the sample taken and then the end of the
step. -/
theorem conversionInsideCycle : Obligations.ConversionInsideCycle := by
  refine ⟨fun pin kOhm s => ⟨fun released converted => ?_, sourceMicroamps_of_other⟩, scanList_eq, fun store r c => ⟨entry_eq store c, ?_⟩,
    tick_timePassed, fun input fell s held => exec_conversion_held held _, fun input fell s released inside more => ?_⟩
  · rw [State.developedMillivolts, sourceMicroamps_of_converted released pin converted]
    split_ifs <;> simp
  · rw [← entry_eq, ← entry_eq, entry_put]
  · refine ⟨(afterSample fell (sampleOf s.scan.pos.channel input) s).settle, ?_, settle_settled _⟩
    simp only [exec, execConversion, released, takeSample_inside fell inside more]

end Sys2Proof.Machine
end

section
/-! PROOFS. Fields as cells and cells as fields: a number and its bits, a payload and its bytes, each way round and back. -/

namespace Sys2Proof.Machine

-- Proofs in parallel threads reserve more address space than the check's memory limit admits.
set_option Elab.async false

/-! ### A field and its bits -/

theorem foldl_bits (bs : List Bool) (n : Nat) :
    bs.foldl (fun n b => 2 * n + b.toNat) n = n * 2 ^ bs.length + bitsToNat bs := by
  induction bs generalizing n with
  | nil => simp [bitsToNat]
  | cons b bs ih =>
    rw [bitsToNat, List.foldl_cons, List.foldl_cons, ih, ih (2 * 0 + b.toNat), List.length_cons, pow_succ]
    ring

theorem bitsToNat_cons (b : Bool) (bs : List Bool) : bitsToNat (b :: bs) = b.toNat * 2 ^ bs.length + bitsToNat bs := by
  rw [bitsToNat, List.foldl_cons, foldl_bits]
  simp

/-- The model's reading of cells is the library's. -/
theorem bitsToNat_eq (bs : List Bool) : bitsToNat bs = (BitVec.ofBoolListBE bs).toNat := by
  induction bs with
  | nil => rfl
  | cons b bs ih => rw [bitsToNat_cons, ih, BitVec.ofBoolListBE, BitVec.toNat_cons', Nat.shiftLeft_eq]

theorem bitsToNat_lt (bs : List Bool) : bitsToNat bs < 2 ^ bs.length := by
  rw [bitsToNat_eq]
  exact BitVec.isLt _

theorem bitsOf_getElem? {w : Nat} (v : BitVec w) {i : Nat} (h : i < w) : (bitsOf v)[i]? = some (v.getMsbD i) := by
  simp [bitsOf, h]

/-- Cells read as a field and sent again are the cells that were read. -/
theorem bitsOf_ofNat_bitsToNat {w : Nat} {bs : List Bool} (length : bs.length = w) : bitsOf (BitVec.ofNat w (bitsToNat bs)) = bs := by
  subst length
  have read : BitVec.ofNat bs.length (bitsToNat bs) = BitVec.ofBoolListBE bs := by
    rw [bitsToNat_eq, BitVec.ofNat_toNat, BitVec.setWidth_eq]
  refine List.ext_getElem (Laws.bitsOf_length _) fun i inside within => ?_
  simp [bitsOf, read, List.getElem?_eq_getElem within]

/-- A field sent and read is the field. -/
theorem bitsToNat_bitsOf {w : Nat} (v : BitVec w) : bitsToNat (bitsOf v) = v.toNat := by
  have read : (BitVec.ofBoolListBE (bitsOf v)).cast (Laws.bitsOf_length v) = v := by
    refine BitVec.eq_of_getMsbD_eq fun i h => ?_
    rw [BitVec.getMsbD_cast, BitVec.getMsbD_ofBoolListBE, List.getD_eq_getElem?_getD, bitsOf_getElem? v h, Option.getD_some]
  rw [bitsToNat_eq, ← BitVec.toNat_cast (Laws.bitsOf_length v) (BitVec.ofBoolListBE _), read]

theorem ofNat_bitsToNat_bitsOf {w : Nat} (v : BitVec w) : BitVec.ofNat w (bitsToNat (bitsOf v)) = v := by
  rw [bitsToNat_bitsOf, BitVec.ofNat_toNat, BitVec.setWidth_eq]

theorem bitsOf_injective {w : Nat} : Function.Injective (bitsOf (w := w)) :=
  fun a b same => by rw [← ofNat_bitsToNat_bitsOf a, same, ofNat_bitsToNat_bitsOf]

/-! ### Bytes -/

theorem readBytes_length (n : Nat) (cells : List Bool) : (readBytes n cells).length = n := by
  induction n generalizing cells with
  | zero => rfl
  | succ n ih => rw [readBytes, List.length_cons, ih]

/-- Bytes sent and read, whatever cells follow them. -/
theorem readBytes_flatMap (bytes : List Byte) (more : List Bool) : readBytes bytes.length (bytes.flatMap bitsOf ++ more) = bytes := by
  induction bytes with
  | nil => rfl
  | cons b bytes ih =>
    rw [List.flatMap_cons, List.append_assoc, List.length_cons, readBytes, List.take_left' (Laws.bitsOf_length b),
      List.drop_left' (Laws.bitsOf_length b), ih, ofNat_bitsToNat_bitsOf]

/-- Cells read as bytes and sent again are the cells that were read. -/
theorem flatMap_readBytes {n : Nat} {cells : List Bool} (length : 8 * n ≤ cells.length) :
    (readBytes n cells).flatMap bitsOf = cells.take (8 * n) := by
  induction n generalizing cells with
  | zero => simp [readBytes]
  | succ n ih =>
    have first : (cells.take 8).length = 8 := by rw [List.length_take]; omega
    have rest : 8 * n ≤ (cells.drop 8).length := by rw [List.length_drop]; omega
    rw [readBytes, List.flatMap_cons, bitsOf_ofNat_bitsToNat first, ih rest, Nat.mul_succ, Nat.add_comm, List.take_add]

theorem flatMap_bitsOf_length (bytes : List Byte) : (bytes.flatMap bitsOf).length = 8 * bytes.length := by
  induction bytes with
  | nil => rfl
  | cons b bytes ih => rw [List.flatMap_cons, List.length_append, Laws.bitsOf_length, ih, List.length_cons]; omega

/-! ### Two-byte values, codes and flags (section 12.1, 12.2) -/

theorem halfOf_hiByte_loByte (h : Half) : halfOf (hiByte h) (loByte h) = h := by
  have wide := h.isLt
  refine BitVec.eq_of_toNat_eq ?_
  rw [halfOf, BitVec.toNat_append, ← Nat.shiftLeft_add_eq_or_of_lt (loByte h).isLt, Nat.shiftLeft_eq]
  simp only [hiByte, loByte, BitVec.toNat_setWidth, BitVec.toNat_ushiftRight, Nat.shiftRight_eq_div_pow]
  omega

theorem halfOf_toNat (hi lo : Byte) : (halfOf hi lo).toNat = 256 * hi.toNat + lo.toNat := by
  rw [halfOf, BitVec.toNat_append, ← Nat.shiftLeft_add_eq_or_of_lt lo.isLt, Nat.shiftLeft_eq]
  omega

theorem hiByte_halfOf (hi lo : Byte) : hiByte (halfOf hi lo) = hi := by
  have high := hi.isLt
  have low := lo.isLt
  refine BitVec.eq_of_toNat_eq ?_
  rw [hiByte, BitVec.toNat_setWidth, BitVec.toNat_ushiftRight, halfOf_toNat, Nat.shiftRight_eq_div_pow]
  omega

theorem loByte_halfOf (hi lo : Byte) : loByte (halfOf hi lo) = lo := by
  have low := lo.isLt
  refine BitVec.eq_of_toNat_eq ?_
  rw [loByte, BitVec.toNat_setWidth, halfOf_toNat]
  omega

theorem codeOfByte_iff (b : Byte) (c : Code) : codeOfByte b = some c ↔ b = c.setWidth 8 := by
  have code := c.isLt
  unfold codeOfByte
  split_ifs with small
  · rw [Option.some.injEq]
    bv_omega
  · simp only [false_iff]
    bv_omega

theorem channelOfCode_iff (b : Byte) (c : Channel) : channelOfCode b = some c ↔ b = channelCode c := by
  refine ⟨fun named => ?_, fun code => by rw [code]; cases c <;> rfl⟩
  unfold channelOfCode at named
  split at named <;> cases named <;> exact BitVec.eq_of_toNat_eq ‹_›

theorem phaseOfCode_iff (b : Byte) (p : PhaseName) : phaseOfCode b = some p ↔ b = phaseCode p := by
  refine ⟨fun named => ?_, fun code => by rw [code]; cases p <;> rfl⟩
  unfold phaseOfCode at named
  split at named <;> cases named <;> exact BitVec.eq_of_toNat_eq ‹_›

theorem causeOfCode_iff (b : Byte) (c : CauseName) : causeOfCode b = some c ↔ b = causeCode c := by
  refine ⟨fun named => ?_, fun code => by rw [code]; cases c <;> rfl⟩
  unfold causeOfCode at named
  split at named <;> cases named <;> exact BitVec.eq_of_toNat_eq ‹_›

theorem rowOfCode_iff (b : Byte) (n : RowName) : rowOfCode b = some n ↔ b = rowCode n := by
  refine ⟨fun named => ?_, fun code => by rw [code]; cases n <;> rfl⟩
  unfold rowOfCode at named
  split at named <;> cases named <;> exact BitVec.eq_of_toNat_eq ‹_›

theorem itemOfCode_iff (b : Byte) (i : Item) : itemOfCode b = some i ↔ b = itemCode i := by
  refine ⟨fun named => ?_, fun code => by rw [code]; cases i <;> rfl⟩
  unfold itemOfCode at named
  split at named <;> cases named <;> exact BitVec.eq_of_toNat_eq ‹_›

theorem modeOfCode_iff (b : Byte) (m : Mode) : modeOfCode b = some m ↔ b = modeCode m := by
  refine ⟨fun named => ?_, fun code => by rw [code]; cases m <;> rfl⟩
  unfold modeOfCode at named
  split at named <;> cases named <;> exact BitVec.eq_of_toNat_eq ‹_›

theorem endingOfCode_iff (b : Byte) (e : Ending) : endingOfCode b = some e ↔ b = endingCode e := by
  refine ⟨fun named => ?_, fun code => by rw [code]; cases e <;> rfl⟩
  unfold endingOfCode at named
  split at named <;> cases named <;> exact BitVec.eq_of_toNat_eq ‹_›

/-- A STATUS record names CENSUS and ON alone (R160, R163). -/
theorem statusLinkOfCode_iff (b : Byte) (l : LinkState) :
    statusLinkOfCode b = some l ↔ (l == .census || l == .on) = true ∧ b = linkCode l := by
  refine ⟨fun named => ?_, fun ⟨link, code⟩ => ?_⟩
  · unfold statusLinkOfCode at named
    split at named <;> cases named <;> exact ⟨rfl, BitVec.eq_of_toNat_eq ‹_›⟩
  · rw [code]
    cases l with
    | census | on => rfl
    | down | hailing | leaving | mute | barred => cases link

/-- The five flags of a STATUS record are the low bits of its flags byte, whose others are 0 (section 12.1). -/
theorem flagsByte_getLsbD (r : StatusRecord) :
    (flagsByte r).toNat < 32 ∧ (flagsByte r).getLsbD 0 = r.isolated ∧ (flagsByte r).getLsbD 1 = r.stuck ∧
    (flagsByte r).getLsbD 2 = r.starved ∧ (flagsByte r).getLsbD 3 = r.throttled ∧ (flagsByte r).getLsbD 4 = r.foldback := by
  unfold flagsByte
  cases r.isolated <;> cases r.stuck <;> cases r.starved <;> cases r.throttled <;> cases r.foldback <;> decide

theorem flagsByte_of_bits {flags : Byte} {r : StatusRecord} (small : flags.toNat < 32) (isolated : r.isolated = flags.getLsbD 0)
    (stuck : r.stuck = flags.getLsbD 1) (starved : r.starved = flags.getLsbD 2) (throttled : r.throttled = flags.getLsbD 3)
    (foldback : r.foldback = flags.getLsbD 4) : flagsByte r = flags := by
  refine BitVec.eq_of_toNat_eq ?_
  simp only [flagsByte, isolated, stuck, starved, throttled, foldback, BitVec.getLsbD, Nat.toNat_testBit, BitVec.toNat_ofNat]
  omega

/-! ### A payload read from its bytes (section 12.1, R163) -/

/-- A REPORT's record in range, read from its bytes, is the record. -/
theorem readReport_reportBytes {r : ReportRecord} (fits : reportInRange r = true) : readReport (reportBytes r) = some r := by
  cases r with
  | status index r =>
    have link : statusLinkOfCode (linkCode r.link) = some r.link := by
      refine (statusLinkOfCode_iff _ _).2 ⟨?_, rfl⟩
      simp only [reportInRange, Bool.and_eq_true] at fits
      tauto
    obtain ⟨small, isolated, stuck, starved, throttled, foldback⟩ := flagsByte_getLsbD r
    simp only [readReport, reportBytes, (itemOfCode_iff _ .status).2 rfl, link, (phaseOfCode_iff _ r.phase).2 rfl,
      (causeOfCode_iff _ r.cause).2 rfl, if_pos small, isolated, stuck, starved, throttled, foldback]
  | row index r =>
    simp only [readReport, reportBytes, (itemOfCode_iff _ .row).2 rfl, (rowOfCode_iff _ r.state).2 rfl, (codeOfByte_iff _ r.sb).2 rfl,
      (codeOfByte_iff _ r.sc).2 rfl, halfOf_hiByte_loByte]
  | reading r =>
    simp only [readReport, reportBytes, (itemOfCode_iff _ .reading).2 rfl, (channelOfCode_iff _ r.channel).2 rfl,
      (endingOfCode_iff _ r.ending).2 rfl, if_true, halfOf_hiByte_loByte]

/-- A payload in range, read from its bytes, is the payload. -/
theorem readPayload_payloadBytes {p : Payload} (fits : payloadInRange p = true) :
    readPayload (kindCode p).toNat (payloadBytes p) = some p := by
  cases p with
  | leave b => simp [readPayload, kindCode, payloadBytes, halfOf_hiByte_loByte]
  | join b =>
    simp [readPayload, kindCode, payloadBytes, halfOf_hiByte_loByte, (codeOfByte_iff _ b.sb).2 rfl, (codeOfByte_iff _ b.sc).2 rfl]
  | demand b =>
    simp [readPayload, kindCode, payloadBytes, halfOf_hiByte_loByte, (codeOfByte_iff _ b.sb).2 rfl, (codeOfByte_iff _ b.sc).2 rfl,
      (modeOfCode_iff _ b.mode).2 rfl]
  | query b => simp [readPayload, kindCode, payloadBytes, (itemOfCode_iff _ b.item).2 rfl]
  | report b =>
    have record := readReport_reportBytes (Bool.and_eq_true_iff.1 fits).2
    simp [readPayload, kindCode, payloadBytes, (codeOfByte_iff _ b.requester).2 rfl, record]
  | unassigned kind bytes => cases kind <;> rfl

/-- A REPORT's record read from bytes has those bytes. -/
theorem reportBytes_of_readReport {bytes : List Byte} {r : ReportRecord} (read : readReport bytes = some r) : reportBytes r = bytes := by
  unfold readReport at read
  split at read
  next item index rest =>
    split at read
    next link phase cause limit target last own stage rows flags status =>
      split at read
      next l p c linkNamed phaseNamed causeNamed =>
        split at read
        next small =>
          cases read
          rw [reportBytes, flagsByte_of_bits small rfl rfl rfl rfl rfl, ← (itemOfCode_iff _ _).1 status,
            ← ((statusLinkOfCode_iff _ _).1 linkNamed).2, ← (phaseOfCode_iff _ _).1 phaseNamed, ← (causeOfCode_iff _ _).1 causeNamed]
        next => cases read
      next => cases read
    next state sb sc demand grant frozen t1 t0 age row =>
      split at read
      next n b c stateNamed sbCode scCode =>
        cases read
        rw [reportBytes, hiByte_halfOf, loByte_halfOf, ← (itemOfCode_iff _ _).1 row, ← (rowOfCode_iff _ _).1 stateNamed,
          ← (codeOfByte_iff _ _).1 sbCode, ← (codeOfByte_iff _ _).1 scCode]
      next => cases read
    next channel count ending n1 n0 x1 x0 a1 a0 l1 l0 reading =>
      split at read
      next c e channelNamed endingNamed =>
        split at read
        next same =>
          cases read
          simp only [reportBytes, hiByte_halfOf, loByte_halfOf, ← (itemOfCode_iff _ _).1 reading, ← (channelOfCode_iff _ _).1 channelNamed,
            ← (endingOfCode_iff _ _).1 endingNamed, same]
        next => cases read
      next => cases read
    next => cases read
  next => cases read

/-- A payload read from bytes is of the kind it was read as, and has those bytes. -/
theorem payloadBytes_of_readPayload {kind : Nat} {bytes : List Byte} {p : Payload} (read : readPayload kind bytes = some p) :
    (kindCode p).toNat = kind ∧ payloadBytes p = bytes := by
  unfold readPayload at read
  split at read
  next t1 t0 =>
    cases read
    exact ⟨rfl, by rw [payloadBytes, hiByte_halfOf, loByte_halfOf]⟩
  next t1 t0 sb sc =>
    split at read
    next b c sbCode scCode =>
      cases read
      refine ⟨rfl, ?_⟩
      rw [payloadBytes, hiByte_halfOf, loByte_halfOf, ← (codeOfByte_iff _ _).1 sbCode, ← (codeOfByte_iff _ _).1 scCode]
    next => cases read
  next t1 t0 sb sc mode demand stage quiet =>
    split at read
    next b c m sbCode scCode modeNamed =>
      cases read
      refine ⟨rfl, ?_⟩
      rw [payloadBytes, hiByte_halfOf, loByte_halfOf, ← (codeOfByte_iff _ _).1 sbCode, ← (codeOfByte_iff _ _).1 scCode,
        ← (modeOfCode_iff _ _).1 modeNamed]
    next => cases read
  next target item index =>
    split at read
    next i itemNamed =>
      cases read
      exact ⟨rfl, by rw [payloadBytes, ← (itemOfCode_iff _ _).1 itemNamed]⟩
    next => cases read
  next requester rest =>
    split at read
    next q r requesterCode record =>
      cases read
      exact ⟨rfl, by rw [payloadBytes, ← (codeOfByte_iff _ _).1 requesterCode, reportBytes_of_readReport record]⟩
    next => cases read
  next => cases read; exact ⟨rfl, rfl⟩
  next => cases read; exact ⟨rfl, rfl⟩
  next => cases read; exact ⟨rfl, rfl⟩
  next => cases read

end Sys2Proof.Machine
end

section
/-! PROOFS. A frame and its cells: what a receiver finds good is a frame in range and no other run of cells, and one cell sampled wrong is always
found (sections 5.2, 5.4, 12.3). -/

namespace Sys2Proof.Machine

-- Proofs in parallel threads reserve more address space than the check's memory limit admits.
set_option Elab.async false

/-! ### The fields of a frame among its cells (section 5.2) -/

theorem bodyCells_length (f : Frame) : (bodyCells f).length = 12 + 8 * (payloadBytes f.payload).length := by
  simp only [bodyCells, List.length_append, Laws.bitsOf_length, flatMap_bitsOf_length]

theorem take_body (f : Frame) : (frameCells f).take (12 + 8 * (payloadBytes f.payload).length) = bodyCells f :=
  List.take_left' (bodyCells_length f)

theorem drop_body (f : Frame) : (frameCells f).drop (12 + 8 * (payloadBytes f.payload).length) = bitsOf (crc (bodyCells f)) :=
  List.drop_left' (bodyCells_length f)

/-- The kind, sender and length fields and the cells after them. -/
theorem frameCells_fields (f : Frame) :
    (frameCells f).take 3 = bitsOf (kindCode f.payload) ∧ ((frameCells f).drop 3).take 5 = bitsOf f.sender ∧
    ((frameCells f).drop 8).take 4 = bitsOf (BitVec.ofNat 4 (payloadBytes f.payload).length) ∧
    (frameCells f).drop 12 = (payloadBytes f.payload).flatMap bitsOf ++ bitsOf (crc (bodyCells f)) := by
  have widths := fun (w : Nat) (v : BitVec w) => Laws.bitsOf_length v
  refine ⟨?_, ?_, ?_, ?_⟩
  · simp [frameCells, bodyCells, widths]
  · simp [frameCells, bodyCells, widths]
  · simp [frameCells, bodyCells, widths, List.take_append, List.drop_append]
  · simp [frameCells, bodyCells, widths, List.drop_append, List.drop_eq_nil_of_le]

/-- The length field of a frame in range reads as the number of its payload bytes. -/
theorem lengthField_eq {f : Frame} (fits : frameInRange f = true) :
    bitsToNat (((frameCells f).drop 8).take 4) = (payloadBytes f.payload).length := by
  obtain ⟨-, -, length, -⟩ := frameCells_fields f
  have short := (Laws.frameOf_inRange fits).2
  rw [length, bitsToNat_bitsOf, BitVec.toNat_ofNat]
  omega

/-! ### The frame that cells spell (R88, R89, R163) -/

/-- Settles O3: each field read from its cells is the one sent, and the check over the same body is the same. -/
theorem frameRoundTrip : Obligations.FrameRoundTrip := by
  intro f fits
  obtain ⟨kind, sender, -, payload⟩ := frameCells_fields f
  obtain ⟨count, -⟩ := Laws.frameOf_inRange fits
  have payloadFits : payloadInRange f.payload = true := (Bool.and_eq_true_iff.1 fits).2
  unfold readFrame
  simp only [lengthField_eq fits, count, ne_eq, not_true_eq_false, if_false, take_body, drop_body, kind, sender, payload,
    readBytes_flatMap, bitsToNat_bitsOf, readPayload_payloadBytes payloadFits, BitVec.ofNat_toNat, BitVec.setWidth_eq, fits, if_true]

/-- The fields read from the first cells of a body, sent again, are those cells. -/
theorem bodyCells_of_fields {cells : List Bool} {length : Nat} {p : Payload} (isLength : bitsToNat ((cells.drop 8).take 4) = length)
    (count : 12 + 8 * length ≤ cells.length) (kind : (kindCode p).toNat = bitsToNat (cells.take 3))
    (bytes : payloadBytes p = readBytes length (cells.drop 12)) :
    bodyCells { sender := BitVec.ofNat 5 (bitsToNat ((cells.drop 3).take 5)), payload := p } = cells.take (12 + 8 * length) := by
  have kindCells : bitsOf (kindCode p) = cells.take 3 := by
    rw [← bitsOf_ofNat_bitsToNat (w := 3) (bs := cells.take 3) (by rw [List.length_take]; omega), ← kind, BitVec.ofNat_toNat, BitVec.setWidth_eq]
  have senderCells : bitsOf (BitVec.ofNat 5 (bitsToNat ((cells.drop 3).take 5))) = (cells.drop 3).take 5 :=
    bitsOf_ofNat_bitsToNat (by rw [List.length_take, List.length_drop]; omega)
  have lengthCells : bitsOf (BitVec.ofNat 4 length) = (cells.drop 8).take 4 := by
    rw [← isLength]
    exact bitsOf_ofNat_bitsToNat (by rw [List.length_take, List.length_drop]; omega)
  have payloadCells : (readBytes length (cells.drop 12)).flatMap bitsOf = (cells.drop 12).take (8 * length) :=
    flatMap_readBytes (by rw [List.length_drop]; omega)
  rw [bodyCells, bytes, readBytes_length, kindCells, senderCells, lengthCells, payloadCells, ← List.take_add, ← List.take_add, ← List.take_add]

/-- Settles O4: the cells are cut at the places that the length field reckons, and each part is that of the frame read. -/
theorem readFrameSound : Obligations.ReadFrameSound := by
  intro cells f read
  unfold readFrame at read
  dsimp only at read
  split_ifs at read with count check
  split at read
  next => cases read
  next p payload =>
    split_ifs at read with fits
    cases read
    obtain ⟨kind, bytes⟩ := payloadBytes_of_readPayload payload
    have reckoned := not_ne_iff.1 count
    rw [reckonedCells] at reckoned
    have body := bodyCells_of_fields rfl (by omega) kind bytes
    refine ⟨fits, ?_⟩
    rw [frameCells, body, not_ne_iff.1 check, List.take_append_drop]

/-! ### The check sequence (R164) -/

/-- The feedback of a step of the check register stands in the lowest bit of its result. -/
theorem crcStep_getLsbD_zero (reg : Byte) (bit : Bool) : (crcStep reg bit).getLsbD 0 = (reg.msb != bit) := by
  unfold crcStep
  split_ifs with feedback
  · simp [feedback]
  · simpa using feedback

/-- Two incoming bits never bring one register to the same result. -/
theorem crcStep_not_bit (reg : Byte) (bit : Bool) : crcStep reg (!bit) ≠ crcStep reg bit := by
  intro same
  have lowest := congrArg (·.getLsbD 0) same
  simp only [crcStep_getLsbD_zero] at lowest
  cases reg.msb <;> cases bit <;> simp at lowest

/-- One incoming bit never brings two registers to the same result: the feedback tells the top bit, and the shift keeps the rest. -/
theorem crcStep_injective (bit : Bool) : Function.Injective (crcStep · bit) := by
  intro a b same
  have feedback : (a.msb != bit) = (b.msb != bit) := by
    rw [← crcStep_getLsbD_zero, ← crcStep_getLsbD_zero]
    exact congrArg (·.getLsbD 0) same
  have top : a.msb = b.msb := by simpa using feedback
  have shifted : a <<< 1 = b <<< 1 := by
    dsimp only [crcStep] at same
    rw [feedback] at same
    split_ifs at same with set
    · exact (BitVec.xor_left_inj _).1 same
    · exact same
  have doubled := congrArg BitVec.toNat shifted
  simp only [BitVec.toNat_shiftLeft, Nat.shiftLeft_eq] at doubled
  simp only [BitVec.msb_eq_decide, decide_eq_decide] at top
  exact BitVec.eq_of_toNat_eq (by omega)

theorem foldl_crcStep_injective (cells : List Bool) : Function.Injective (cells.foldl crcStep) := by
  induction cells with
  | nil => exact Function.injective_id
  | cons bit cells ih => exact ih.comp (crcStep_injective bit)

/-- One cell changed under the check changes the check. -/
theorem crc_set_ne {cells : List Bool} {k : Nat} {b : Bool} (cell : cells[k]? = some b) : crc (cells.set k (!b)) ≠ crc cells := by
  obtain ⟨inside, rfl⟩ := List.getElem?_eq_some_iff.1 cell
  intro same
  have split : crc cells = (cells.drop (k + 1)).foldl crcStep (crcStep (crc (cells.take k)) cells[k]) := by
    conv_lhs => rw [← List.take_append_drop k cells, ← List.cons_getElem_drop_succ (h := inside)]
    rw [crc, List.foldl_append, List.foldl_cons, ← crc]
  rw [List.set_eq_take_append_cons_drop, if_pos inside, crc, List.foldl_append, List.foldl_cons, ← crc, split] at same
  exact crcStep_not_bit _ _ (foldl_crcStep_injective _ same)

theorem set_not_ne {cells : List Bool} {k : Nat} {b : Bool} (cell : cells[k]? = some b) : cells.set k (!b) ≠ cells := by
  intro same
  obtain ⟨inside, -⟩ := List.getElem?_eq_some_iff.1 cell
  have changed : (cells.set k (!b))[k]? = some b := by rw [same, cell]
  rw [List.getElem?_set_self inside] at changed
  cases b <;> cases changed

/-- The payload lengths of two frames in range are equal where their cells are equally many. -/
theorem payload_length_eq {f g : Frame} (count : (frameCells g).length = (frameCells f).length) :
    (payloadBytes g.payload).length = (payloadBytes f.payload).length := by
  rw [Laws.frameCells_length, Laws.frameCells_length, reckonedCells, reckonedCells] at count
  omega

/-- Settles O5: the cells would be those of a frame in range, and its body and its check cannot both be right: the cell stands in one of the
two, and the body decides the check. -/
theorem singleCellErrorRefused : Obligations.SingleCellErrorRefused := by
  intro f k b fits cell
  refine Option.eq_none_iff_forall_ne_some.2 fun g read => ?_
  obtain ⟨-, cells⟩ := readFrameSound _ _ read
  have length := payload_length_eq (f := f) (g := g) (by rw [cells, List.length_set])
  have body : bodyCells g = (bodyCells f).set k (!b) := by
    rw [← take_body, cells, length, List.take_set, take_body]
  have check : bitsOf (crc (bodyCells g)) = ((frameCells f).set k (!b)).drop (12 + 8 * (payloadBytes f.payload).length) := by
    rw [← drop_body, cells, length]
  by_cases inBody : k < 12 + 8 * (payloadBytes f.payload).length
  · rw [List.drop_set_of_lt inBody, drop_body] at check
    have bodyCell : (bodyCells f)[k]? = some b := by rw [← take_body, List.getElem?_take_of_lt inBody, cell]
    exact crc_set_ne bodyCell (body ▸ bitsOf_injective check)
  · have same : bodyCells g = bodyCells f := by
      rw [body, List.set_eq_of_length_le]
      rw [bodyCells_length]
      omega
    have whole : (frameCells f).set k (!b) = frameCells f := by
      rw [← cells, frameCells, same, frameCells]
    exact set_not_ne cell whole

end Sys2Proof.Machine
end

section
/-! PROOFS. What a party finds in a reception: the nominal waveform and its cells, a frame that a receiver finds bad, and a station's veto by
how it fares as a sender (R80, R81, R85, R87 to R91). -/

namespace Sys2Proof.Machine

-- Proofs in parallel threads reserve more address space than the check's memory limit admits.
set_option Elab.async false

/-! ### Cells at their nominal times (R80, R81) -/

@[simp] theorem nominalCell_gap (bit : Bool) : (nominalCell bit).gap = 10000 := rfl

@[simp] theorem sampleCell_nominalCell (bit : Bool) : sampleCell (nominalCell bit) = bit := by cases bit <;> rfl

@[simp] theorem cellFault_nominalCell (bit follows : Bool) : cellFault (nominalCell bit) follows = false := by
  cases bit <;> cases follows <;> rfl

theorem dataCells_of_gaps {cells : List CellSeen} (gaps : ∀ c ∈ cells, c.gap ≤ 11000) : dataCells cells = cells := by
  induction cells with
  | nil => rfl
  | cons c cells ih =>
    obtain ⟨first, rest⟩ := List.forall_mem_cons.1 gaps
    rw [dataCells, if_neg (Nat.not_lt.2 first), ih rest]

@[simp] theorem dataCells_nominal (cells : List Bool) : dataCells (cells.map nominalCell) = cells.map nominalCell := by
  refine dataCells_of_gaps fun c mem => ?_
  obtain ⟨bit, -, rfl⟩ := List.mem_map.1 mem
  exact Nat.le_of_ble_eq_true rfl

@[simp] theorem timingFault_nominal (cells : List Bool) : timingFault (cells.map nominalCell) = false := by
  induction cells with
  | nil => rfl
  | cons bit cells ih => rw [List.map_cons, timingFault, cellFault_nominalCell, ih, Bool.false_or]

@[simp] theorem map_sampleCell_nominal (cells : List Bool) : (cells.map nominalCell).map sampleCell = cells := by
  simp [Function.comp_def]

theorem frameCells_ne_nil (f : Frame) : frameCells f ≠ [] := by
  refine List.ne_nil_of_length_pos ?_
  rw [Laws.frameCells_length, reckonedCells]
  omega

theorem beginsFrame_iff (rx : Reception) : beginsFrame rx = true ↔ Begins rx := by simp [beginsFrame, Begins]

theorem begins_waveformOf {sending : Bool} {cells : List Bool} (nonempty : cells ≠ []) : Begins (waveformOf sending cells) := by
  simpa [Begins, waveformOf] using nonempty

/-- On the nominal waveform the cells alone decide what a receiver finds. -/
theorem receiverFindsBad_waveformOf (sending : Bool) (cells : List Bool) :
    receiverFindsBad (waveformOf sending cells) = (readFrame cells).isNone := by
  unfold receiverFindsBad receptionTimingFault waveformOf
  simp only [dataCells_nominal, timingFault_nominal, map_sampleCell_nominal]
  rfl

/-! ### The nominal waveform of a frame (R81, R84) -/

theorem readFrame_frameCells {f : Frame} (fits : frameInRange f = true) : readFrame (frameCells f) = some f := frameRoundTrip f fits

theorem nominalWaveform_eq (f : Frame) : nominalWaveform f = waveformOf false (frameCells f) := rfl

theorem sum_gap_nominal (cells : List Bool) : ((cells.map nominalCell).map CellSeen.gap).sum = 10000 * cells.length := by
  simp [Function.comp_def, mul_comm]

/-- Settles O6: at nominal times no party finds a fault of timing, and the cells are those of the frame. -/
theorem nominalWaveformGood : Obligations.NominalWaveformGood := by
  intro f fits
  have count := Laws.frameCells_length f
  rw [reckonedCells] at count
  rw [nominalWaveform_eq]
  refine ⟨(beginsFrame_iff _).2 (begins_waveformOf (frameCells_ne_nil f)), ?_, ?_, ?_, rfl⟩
  · rw [receiverFindsBad_waveformOf, readFrame_frameCells fits, Option.isNone_some]
  · simp only [waveformOf, List.length_map, count]
  · simp only [waveformOf, sum_gap_nominal, count]

/-! ### A frame that a receiver finds bad (R88, R89) -/

theorem spells_iff (rx : Reception) (f : Frame) : Spells rx f ↔ (dataCells rx.cells).map sampleCell = frameCells f := by
  unfold Spells
  simp only [isDataCell_iff]
  constructor
  · intro spells
    refine List.ext_getElem? fun k => Option.ext fun b => ?_
    rw [List.getElem?_map, Option.map_eq_some_iff]
    exact (exists_congr fun c => and_congr_right' eq_comm).trans (spells k b).symm
  · intro same k b
    rw [← same, List.getElem?_map, Option.map_eq_some_iff]
    exact exists_congr fun c => and_congr_right' eq_comm

theorem readFrame_eq_none_iff (cells : List Bool) : readFrame cells = none ↔ ∀ f, frameInRange f = true → frameCells f ≠ cells := by
  constructor
  · rintro none f fits rfl
    rw [readFrame_frameCells fits] at none
    cases none
  · intro other
    refine Option.eq_none_iff_forall_ne_some.2 fun f read => ?_
    obtain ⟨fits, cells⟩ := readFrameSound _ _ read
    exact other f fits cells

theorem receptionTimingFault_iff (rx : Reception) :
    receptionTimingFault rx = true ↔ rx.startGap < 20500 ∨
      (∃ k c, IsDataCell rx k c ∧ ¬(1500 ≤ c.low ∧ c.low ≤ 3500) ∧ ¬(6500 ≤ c.low ∧ c.low ≤ 8500)) ∨
      ∃ k c d, IsDataCell rx k c ∧ IsDataCell rx (k + 1) d ∧ c.gap < 9000 := by
  simp only [receptionTimingFault, Bool.or_eq_true, decide_eq_true_eq, timingFault_iff, isDataCell_iff, lowRunIsOne, lowRunIsZero,
    decide_eq_false_iff_not, Option.isSome_iff_exists, and_or_left, exists_or]
  refine or_congr_right (or_congr_right (exists_congr fun k => exists_congr fun c => ?_))
  exact ⟨fun ⟨here, ⟨d, next⟩, early⟩ => ⟨d, here, next, early⟩, fun ⟨d, here, next, early⟩ => ⟨here, ⟨d, next⟩, early⟩⟩

theorem receiverFindsBad_iff (rx : Reception) : receiverFindsBad rx = true ↔ BadAtReceiver rx := by
  unfold receiverFindsBad BadAtReceiver
  simp only [Bool.or_eq_true, receptionTimingFault_iff, Option.isNone_iff_eq_none, readFrame_eq_none_iff, spells_iff, or_assoc, ne_comm, ne_eq]

/-! ### A station's veto, by how it fares as a sender (R85, R87, R91) -/

theorem startFits_iff {rx : Reception} (begins : Begins rx) : startFits rx = true ↔ 20500 ≤ rx.startGap := by
  obtain ⟨-, -, late, -⟩ := begins
  simp [startFits, late]

/-- A sender fares in its frame as its contest says, where it can take the first kind cell for its own. -/
theorem senderFate_of_begins {f : Frame} {rx : Reception} (sending : rx.sending = true) (begins : Begins rx) :
    senderFate (some f) rx = some (if 20500 ≤ rx.startGap then contest (frameCells f) (dataCells rx.cells) else .bitError) := by
  have run : strayRun rx = false := Bool.eq_false_iff.2 fun stray => ((strayRun_iff rx).1 stray).2 begins
  simp only [senderFate, sending, run, startFits_iff begins, Bool.false_eq_true, if_false]

theorem senderFate_waveformOf (f : Frame) {cells : List Bool} (nonempty : cells ≠ []) :
    senderFate (some f) (waveformOf true cells) = some (contest (frameCells f) (cells.map nominalCell)) := by
  rw [senderFate_of_begins rfl (begins_waveformOf nonempty), ← dataCells_nominal]
  rfl

theorem stationVetoes_of_survived {tx : Option Frame} {rx : Reception} (fate : senderFate tx rx = some .survived) :
    stationVetoes tx rx = false := by rw [stationVetoes, fate]

theorem stationVetoes_of_lost {tx : Option Frame} {rx : Reception} (fate : senderFate tx rx = some .lost) :
    stationVetoes tx rx = receiverFindsBad rx := by rw [stationVetoes, fate]

theorem stationVetoes_of_bitError {tx : Option Frame} {rx : Reception} (fate : senderFate tx rx = some .bitError) :
    stationVetoes tx rx = true := by rw [stationVetoes, fate]

theorem stationVetoes_of_no_sender {tx : Option Frame} {rx : Reception} (fate : senderFate tx rx = none) :
    stationVetoes tx rx = (beginsFrame rx && receiverFindsBad rx) := by rw [stationVetoes, fate]

theorem vetoes_of_takesLine {s : State} (takes : s.takesLine = true) (rx : Reception) : s.vetoes rx = stationVetoes s.wire.tx rx := if_pos takes

/-- A station that only finishes its frame vetoes it on a bit error alone (R96; log 33). -/
theorem vetoes_of_finishing {s : State} (out : s.takesLine = false) (rx : Reception) :
    s.vetoes rx = true ↔ senderFate s.wire.tx rx = some .bitError := by
  rw [State.vetoes, if_neg (Bool.eq_false_iff.1 out), beq_iff_eq]

theorem vetoes_of_bitError {s : State} {rx : Reception} (fate : senderFate s.wire.tx rx = some .bitError) : s.vetoes rx = true := by
  by_cases takes : s.takesLine = true
  · rw [vetoes_of_takesLine takes, stationVetoes_of_bitError fate]
  · exact (vetoes_of_finishing (Bool.eq_false_iff.2 takes) rx).2 fate

/-- No bit error and nothing that a station in its place vetoes: no veto, whether it takes part or only finishes its frame. -/
theorem vetoes_eq_false {s : State} {rx : Reception} (fate : senderFate s.wire.tx rx ≠ some .bitError)
    (station : stationVetoes s.wire.tx rx = false) : s.vetoes rx = false := by
  by_cases takes : s.takesLine = true
  · rw [vetoes_of_takesLine takes, station]
  · exact Bool.eq_false_iff.2 (mt (vetoes_of_finishing (Bool.eq_false_iff.2 takes) rx).1 fate)

end Sys2Proof.Machine
end

section
/-! PROOFS. Arbitration, and what a sender drives: the first cell in which two frames differ, the cells driven to it or to the end, and their
edges (R79 to R81, R85, R87, R91). -/

namespace Sys2Proof.Machine

-- Proofs in parallel threads reserve more address space than the check's memory limit admits.
set_option Elab.async false

/-! ### The first cell in which two runs of cells differ (R85) -/

/-- The smaller of two numbers of one width has the first 0 where the other has a 1. -/
theorem exists_first_difference {as bs : List Bool} (length : as.length = bs.length) (smaller : bitsToNat as < bitsToNat bs) :
    ∃ same restA restB, as = same ++ false :: restA ∧ bs = same ++ true :: restB := by
  induction as generalizing bs with
  | nil =>
    obtain rfl := List.length_eq_zero_iff.1 length.symm
    exact absurd smaller (lt_irrefl _)
  | cons a as ih =>
    obtain ⟨b, bs, rfl⟩ := List.exists_cons_of_length_pos (length.symm ▸ Nat.succ_pos as.length : 0 < bs.length)
    have restLength : as.length = bs.length := Nat.succ.inj length
    rw [bitsToNat_cons, bitsToNat_cons, restLength] at smaller
    have small := bitsToNat_lt bs
    have further (equal : a = b) (less : bitsToNat as < bitsToNat bs) :
        ∃ same restA restB, a :: as = same ++ false :: restA ∧ b :: bs = same ++ true :: restB := by
      obtain ⟨same, restA, restB, rfl, rfl⟩ := ih restLength less
      exact ⟨a :: same, restA, restB, rfl, by rw [equal]; rfl⟩
    cases a with
    | false =>
      cases b with
      | false => exact further rfl (by simpa using smaller)
      | true => exact ⟨[], as, bs, rfl, rfl⟩
    | true =>
      cases b with
      | false => simp at smaller; omega
      | true => exact further rfl (by simpa using smaller)

/-- A frame's cells begin with its kind and its sender (section 5.2). -/
theorem frameCells_header (f : Frame) : ∃ rest, frameCells f = bitsOf (kindCode f.payload) ++ (bitsOf f.sender ++ rest) :=
  ⟨bitsOf (BitVec.ofNat 4 (payloadBytes f.payload).length) ++ ((payloadBytes f.payload).flatMap bitsOf ++ bitsOf (crc (bodyCells f))),
    by simp [frameCells, bodyCells]⟩

theorem bitsOf_first_difference {w : Nat} {u v : BitVec w} (smaller : u.toNat < v.toNat) :
    ∃ same restU restV, bitsOf u = same ++ false :: restU ∧ bitsOf v = same ++ true :: restV := by
  refine exists_first_difference ?_ ?_
  · rw [Laws.bitsOf_length, Laws.bitsOf_length]
  · rwa [bitsToNat_bitsOf, bitsToNat_bitsOf]

/-- The frame of the lower kind, or of the lower sender within one kind, has the first 0 where the other has a 1. -/
theorem frames_first_difference {f g : Frame}
    (lower : (kindCode f.payload).toNat < (kindCode g.payload).toNat ∨
      kindCode f.payload = kindCode g.payload ∧ f.sender.toNat < g.sender.toNat) :
    ∃ same restF restG, frameCells f = same ++ false :: restF ∧ frameCells g = same ++ true :: restG := by
  obtain ⟨tailF, cellsF⟩ := frameCells_header f
  obtain ⟨tailG, cellsG⟩ := frameCells_header g
  rw [cellsF, cellsG]
  rcases lower with kind | ⟨kind, sender⟩
  · obtain ⟨same, restF, restG, isF, isG⟩ := bitsOf_first_difference kind
    rw [isF, isG]
    exact ⟨same, _, _, List.append_assoc .., List.append_assoc ..⟩
  · obtain ⟨same, restF, restG, isF, isG⟩ := bitsOf_first_difference sender
    rw [kind, isF, isG]
    exact ⟨bitsOf (kindCode g.payload) ++ same, restF ++ tailF, restG ++ tailG, by simp, by simp⟩

/-- Two runs of cells that agree before the k-th begin with the same k cells. -/
theorem take_eq_of_agree {as bs : List Bool} {k : Nat} (agree : ∀ j < k, as[j]? = bs[j]?) : as.take k = bs.take k := by
  refine List.ext_getElem? fun j => ?_
  rw [List.getElem?_take, List.getElem?_take]
  split_ifs with before
  · exact agree j before
  · rfl

theorem split_at {cells : List Bool} {k : Nat} {b : Bool} (cell : cells[k]? = some b) :
    cells = cells.take k ++ b :: cells.drop (k + 1) := by
  obtain ⟨inside, rfl⟩ := List.getElem?_eq_some_iff.1 cell
  rw [List.cons_getElem_drop_succ, List.take_append_drop]

/-! ### The contest and the cells driven, on cells at their nominal times (R85, R87) -/

theorem contest_nominal_append (same sent seen : List Bool) :
    contest (same ++ sent) ((same ++ seen).map nominalCell) = contest sent (seen.map nominalCell) := by
  induction same with
  | nil => rfl
  | cons b same ih =>
    rw [List.cons_append, List.cons_append, List.map_cons, contest, sampleCell_nominalCell, cellFault_nominalCell, if_neg (by simp),
      if_neg (by simp), ih]

theorem contest_nominal_self (cells : List Bool) : contest cells (cells.map nominalCell) = .survived := by
  simpa [contest] using contest_nominal_append cells [] []

theorem contest_nominal_lost (same sent seen : List Bool) :
    contest (same ++ true :: sent) ((same ++ false :: seen).map nominalCell) = .lost := by
  rw [contest_nominal_append]
  simp [contest]

theorem contest_nominal_bitError (same sent seen : List Bool) :
    contest (same ++ false :: sent) ((same ++ true :: seen).map nominalCell) = .bitError := by
  rw [contest_nominal_append]
  simp [contest]

/-- A 0 sent and a 1 sampled is a bit error (R87). -/
theorem contest_nominal_set {cells : List Bool} {k : Nat} (cell : cells[k]? = some false) :
    contest cells ((cells.set k true).map nominalCell) = .bitError := by
  have inside := (List.getElem?_eq_some_iff.1 cell).1
  have errs := contest_nominal_bitError (cells.take k) (cells.drop (k + 1)) (cells.drop (k + 1))
  rwa [← split_at cell, ← List.set_eq_take_cons_drop true inside] at errs

/-- A sender that does not lose drives every cell (R85, R87). -/
theorem drivenCells_of_not_lost {sent : List Bool} {seen : List CellSeen} (stays : contest sent seen ≠ .lost) :
    drivenCells sent seen = sent := by
  induction sent generalizing seen with
  | nil => rfl
  | cons b sent ih =>
    cases seen with
    | nil => rfl
    | cons c seen =>
      unfold contest at stays
      unfold drivenCells
      split_ifs at stays ⊢ with lost errs
      · exact absurd rfl stays
      · rfl
      · rw [ih stays]

/-- A sender that loses drives the cell it lost in, and none after it (R85). -/
theorem drivenCells_nominal_lost (same sent seen : List Bool) :
    drivenCells (same ++ true :: sent) ((same ++ false :: seen).map nominalCell) = same ++ [true] := by
  induction same with
  | nil => simp [drivenCells]
  | cons b same ih =>
    rw [List.cons_append, List.cons_append, List.map_cons, drivenCells, sampleCell_nominalCell, cellFault_nominalCell, if_neg (by simp),
      if_neg (by simp), ih, List.cons_append]

/-! ### The edges of the cells driven (R80, R81) -/

theorem cellEdge_succ (k : Nat) : cellEdge k + 10000 = cellEdge (k + 1) := by
  unfold cellEdge
  omega

theorem edgesFrom_length (first : Nat) (cells : List CellSeen) : (edgesFrom first cells).length = cells.length := by
  induction cells generalizing first with
  | nil => rfl
  | cons c cells ih => rw [edgesFrom, List.length_cons, ih, List.length_cons]

/-- Cells 10 microseconds apart have their nominal edges. -/
theorem edgesFrom_getElem? {cells : List CellSeen} (gaps : ∀ c ∈ cells, c.gap = 10000) (k : Nat) {i : Nat} (inside : i < cells.length) :
    (edgesFrom (cellEdge k) cells)[i]? = some (cellEdge (k + i)) := by
  induction cells generalizing k i with
  | nil => exact absurd inside (Nat.not_lt_zero i)
  | cons c cells ih =>
    obtain ⟨first, rest⟩ := List.forall_mem_cons.1 gaps
    cases i with
    | zero => rfl
    | succ i =>
      rw [edgesFrom, List.getElem?_cons_succ, first, cellEdge_succ, ih rest (k + 1) (Nat.lt_of_succ_lt_succ inside)]
      congr 2
      omega

theorem mem_edgesFrom {cells : List CellSeen} (gaps : ∀ c ∈ cells, c.gap = 10000) {e : Nat} (mem : e ∈ edgesFrom (cellEdge 0) cells) :
    ∃ j, e = cellEdge j := by
  obtain ⟨i, is⟩ := List.mem_iff_getElem?.1 mem
  have inside : i < cells.length := by
    rw [← edgesFrom_length (cellEdge 0)]
    exact (List.getElem?_eq_some_iff.1 is).1
  rw [edgesFrom_getElem? gaps 0 inside] at is
  exact ⟨_, (Option.some.inj is).symm⟩

/-- Where every edge seen is nominal, none lies between the edge before and a due edge at most 10 microseconds on. -/
theorem nextEdge_nominal {seen : List Nat} (nominal : ∀ e ∈ seen, ∃ j, e = cellEdge j) {last k : Nat} (near : cellEdge k ≤ last + 10000) :
    nextEdge seen last (cellEdge k) = cellEdge k := by
  have none : seen.find? (fun e => decide (last < e ∧ e < cellEdge k)) = none := by
    refine List.find?_eq_none.2 fun e mem between => ?_
    obtain ⟨j, rfl⟩ := nominal e mem
    unfold cellEdge at *
    simp only [decide_eq_true_eq] at between
    omega
  rw [nextEdge, none, Option.getD_none]

/-- The low run of a sender's k-th cell at its nominal edge (R80, R81). -/
def cellDrive (k : Nat) (bit : Bool) : Drive := { start := cellEdge k, stop := cellEdge k + (if bit = true then 2500 else 7500) }

theorem cellDrives_nominal {seen : List Nat} (nominal : ∀ e ∈ seen, ∃ j, e = cellEdge j) (cells : List Bool) {last : Nat} (k : Nat)
    (near : cellEdge k ≤ last + 10000) :
    cellDrives seen last (cellEdge k) cells = cells.mapIdx fun i bit => cellDrive (k + i) bit := by
  induction cells generalizing last k with
  | nil => rfl
  | cons bit cells ih =>
    rw [cellDrives, nextEdge_nominal nominal near, List.mapIdx_cons, cellEdge_succ]
    refine congrArg₂ List.cons rfl ((ih (k + 1) (cellEdge_succ k).ge).trans ?_)
    refine congrArg (List.mapIdx · cells) (funext fun i => funext fun bit => congrArg (cellDrive · bit) ?_)
    omega

/-- A sender drives its start mark and, at nominal edges, the cells that the contest leaves it (R80, R81). -/
theorem frameDrives_nominal (f : Frame) {rx : Reception} (start : rx.startGap = 22500) (gaps : ∀ c ∈ rx.cells, c.gap = 10000) :
    frameDrives f rx = { start := 0, stop := 20000 } :: (drivenCells (frameCells f) (dataCells rx.cells)).mapIdx cellDrive := by
  have nominal (e : Nat) (mem : e ∈ edgesFrom 22500 rx.cells) : ∃ j, e = cellEdge j := mem_edgesFrom gaps mem
  have fits : startFits rx = true := by simp [startFits, start]
  rw [frameDrives, if_pos fits, start]
  refine congrArg (List.cons _) ((cellDrives_nominal nominal _ (last := 20000) 0 (by decide)).trans ?_)
  simp only [Nat.zero_add]

theorem gap_waveformOf {sending : Bool} {cells : List Bool} : ∀ c ∈ (waveformOf sending cells).cells, c.gap = 10000 := by
  intro c mem
  obtain ⟨bit, -, rfl⟩ := List.mem_map.1 mem
  rfl

/-- A sender that drives no veto drives of its frame what the contest leaves it (R79, R85). -/
theorem shlDrives_waveformOf {s : State} {f : Frame} {cells : List Bool} (sent : s.wire.tx = some f)
    (quiet : s.vetoes (waveformOf true cells) = false) :
    s.shlDrives (waveformOf true cells) =
      { start := 0, stop := 20000 } :: (drivenCells (frameCells f) (cells.map nominalCell)).mapIdx cellDrive := by
  have drives := frameDrives_nominal f (rx := waveformOf true cells) rfl gap_waveformOf
  rw [show (waveformOf true cells).cells = cells.map nominalCell from rfl, dataCells_nominal] at drives
  unfold State.shlDrives
  rw [sent, quiet, ← drives]
  exact List.append_nil _

/-- The edge of the last drive of a frame with all its cells is that of its last cell. -/
theorem getLastD_cellDrive {cells : List Bool} (nonempty : cells ≠ []) (mark : Drive) :
    ((mark :: cells.mapIdx cellDrive).getLastD { start := 0, stop := 0 }).start = cellEdge (cells.length - 1) := by
  obtain ⟨before, bit, rfl⟩ := (List.eq_nil_or_concat cells).resolve_left nonempty
  rw [List.concat_eq_append, List.mapIdx_concat, List.getLastD_cons, List.getLastD_concat, List.length_append]
  rfl

/-- A sender with a bit error drives its whole frame, and then its veto (R87, R91). -/
theorem shlDrives_of_bitError {s : State} {f : Frame} {rx : Reception} (sent : s.wire.tx = some f) (sending : rx.sending = true)
    (start : rx.startGap = 22500) (gaps : ∀ c ∈ rx.cells, c.gap = 10000) (fate : senderFate s.wire.tx rx = some .bitError)
    (errs : contest (frameCells f) (dataCells rx.cells) = .bitError) :
    s.shlDrives rx = { start := 0, stop := 20000 } :: (frameCells f).mapIdx cellDrive ++
      [{ start := cellEdge ((frameCells f).length - 1) + 10000, stop := cellEdge ((frameCells f).length - 1) + 30000 }] := by
  have whole : drivenCells (frameCells f) (dataCells rx.cells) = frameCells f := drivenCells_of_not_lost (by rw [errs]; nofun)
  have last := getLastD_cellDrive (frameCells_ne_nil f) { start := 0, stop := 20000 }
  unfold State.shlDrives
  rw [vetoes_of_bitError fate, fate, sending, sent]
  simp only [frameDrives_nominal f start gaps, whole, last, if_true, VetoMoment.drive]

/-! ### Arbitration and senders (R79 to R81, R85, R87, R91) -/

/-- A sender that lost to a frame in range finds nothing to veto, whether it takes part or only finishes its frame (R85, R91, R96). -/
theorem loser_vetoes_nothing {f g : Frame} (fits : frameInRange f = true)
    (loses : contest (frameCells g) ((frameCells f).map nominalCell) = .lost) :
    stationVetoes (some g) (waveformOf true (frameCells f)) = false ∧
    ∀ s : State, s.wire.tx = some g → s.vetoes (waveformOf true (frameCells f)) = false := by
  have fate := senderFate_waveformOf g (frameCells_ne_nil f)
  rw [loses] at fate
  have station : stationVetoes (some g) (waveformOf true (frameCells f)) = false := by
    rw [stationVetoes_of_lost fate, receiverFindsBad_waveformOf, readFrame_frameCells fits, Option.isNone_some]
  exact ⟨station, fun s sent => vetoes_eq_false (by rw [sent, fate]; nofun) (by rw [sent, station])⟩

/-- A sender that sees its own frame on the line vetoes nothing (R87). -/
theorem survivor_vetoes_nothing (f : Frame) :
    stationVetoes (some f) (waveformOf true (frameCells f)) = false ∧
    ∀ s : State, s.wire.tx = some f → s.vetoes (waveformOf true (frameCells f)) = false := by
  have fate := senderFate_waveformOf f (frameCells_ne_nil f)
  rw [contest_nominal_self] at fate
  have station := stationVetoes_of_survived fate
  exact ⟨station, fun s sent => vetoes_eq_false (by rw [sent, fate]; nofun) (by rw [sent, station])⟩

/-- A 1 sampled where a 0 was sent is vetoed, whether the sender takes part or only finishes its frame (R87, R96). -/
theorem flipped_cell_vetoed {f : Frame} {k : Nat} (cell : (frameCells f)[k]? = some false) :
    stationVetoes (some f) (waveformOf true ((frameCells f).set k true)) = true ∧
    ∀ s : State, s.wire.tx = some f → s.vetoes (waveformOf true ((frameCells f).set k true)) = true := by
  have fate := senderFate_waveformOf f (cells := (frameCells f).set k true) (by simpa using frameCells_ne_nil f)
  rw [contest_nominal_set cell] at fate
  exact ⟨stationVetoes_of_bitError fate, fun s sent => vetoes_of_bitError (by rw [sent, fate])⟩

/-- What a sender drives of a frame that nobody disturbs: its start mark and every cell of it (R80, R81). -/
theorem shlDrives_of_survivor {s : State} {f : Frame} (sent : s.wire.tx = some f) :
    s.shlDrives (waveformOf true (frameCells f)) = { start := 0, stop := 20000 } :: (frameCells f).mapIdx cellDrive := by
  have whole : drivenCells (frameCells f) ((frameCells f).map nominalCell) = frameCells f :=
    drivenCells_of_not_lost (by rw [contest_nominal_self]; nofun)
  rw [shlDrives_waveformOf sent ((survivor_vetoes_nothing f).2 s sent), whole]

/-- A sender that loses in its cell k drives the start mark and k + 1 cells (R85). -/
theorem shlDrives_of_loser {s : State} {f g : Frame} {k : Nat} (fits : frameInRange g = true) (sent : s.wire.tx = some f)
    (agree : ∀ j < k, (frameCells f)[j]? = (frameCells g)[j]?) (sentOne : (frameCells f)[k]? = some true)
    (seenZero : (frameCells g)[k]? = some false) : (s.shlDrives (waveformOf true (frameCells g))).length = k + 2 := by
  have cellsF := split_at sentOne
  have cellsG := split_at seenZero
  rw [← take_eq_of_agree agree] at cellsG
  have loses := contest_nominal_lost ((frameCells f).take k) ((frameCells f).drop (k + 1)) ((frameCells g).drop (k + 1))
  have driven := drivenCells_nominal_lost ((frameCells f).take k) ((frameCells f).drop (k + 1)) ((frameCells g).drop (k + 1))
  rw [← cellsF, ← cellsG] at loses driven
  have inside := (List.getElem?_eq_some_iff.1 sentOne).1
  rw [shlDrives_waveformOf sent ((loser_vetoes_nothing fits loses).2 s sent), driven, List.length_cons, List.length_mapIdx, List.length_append,
    List.length_take, Nat.min_eq_left inside.le, List.length_singleton]

/-- The three ways in which a sender fares in a frame that begins, and its veto in each (R85, R87, R91). -/
theorem sender_vetoes {f : Frame} {rx : Reception} (sending : rx.sending = true) (begins : Begins rx) {s : State} (sent : s.wire.tx = some f) :
    (20500 ≤ rx.startGap → (∃ k, LosesIn f rx k) →
      (stationVetoes (some f) rx = true ↔ BadAtReceiver rx) ∧
      (s.takesLine = true → (s.vetoes rx = true ↔ BadAtReceiver rx)) ∧ (s.takesLine = false → s.vetoes rx = false)) ∧
    (rx.startGap < 20500 ∨ (∃ k, ErrsIn f rx k) → stationVetoes (some f) rx = true ∧ s.vetoes rx = true) ∧
    (20500 ≤ rx.startGap → (¬∃ k, LosesIn f rx k) → (¬∃ k, ErrsIn f rx k) →
      stationVetoes (some f) rx = false ∧ s.vetoes rx = false) := by
  have fate := senderFate_of_begins (f := f) sending begins
  rw [losesIn_iff, errsIn_iff, ← receiverFindsBad_iff]
  refine ⟨fun fits loses => ?_, fun errs => ?_, fun fits stays well => ?_⟩
  · rw [if_pos fits, loses] at fate
    have station := stationVetoes_of_lost fate
    refine ⟨by rw [station], fun takes => by rw [vetoes_of_takesLine takes, sent, station], fun out => ?_⟩
    exact Bool.eq_false_iff.2 (mt (vetoes_of_finishing out rx).1 (by rw [sent, fate]; nofun))
  · have fate : senderFate (some f) rx = some .bitError := by
      rw [fate]
      split_ifs with fits
      · rw [errs.resolve_left (Nat.not_lt.2 fits)]
      · rfl
    exact ⟨stationVetoes_of_bitError fate, vetoes_of_bitError (by rw [sent, fate])⟩
  · have survives : contest (frameCells f) (dataCells rx.cells) = .survived := by
      cases is : contest (frameCells f) (dataCells rx.cells) with
      | survived => rfl
      | lost => exact absurd is stays
      | bitError => exact absurd is well
    rw [if_pos fits, survives] at fate
    have station := stationVetoes_of_survived fate
    exact ⟨station, vetoes_eq_false (by rw [sent, fate]; nofun) (by rw [sent, station])⟩

/-- Settles O7: two frames differ first in a cell that the lower holds low; the rest says what each way that a sender fares in its frame makes it
veto and drive. -/
theorem arbitrationAndSenders : Obligations.ArbitrationAndSenders := by
  refine ⟨fun f g fitsF fitsG lower => ?_, fun f k s fits sent cell => ?_, fun f s fits sent => ?_,
    fun f g k s fits sent agree sentOne seenZero => shlDrives_of_loser fits sent agree sentOne seenZero,
    fun f rx s sent sending begins => sender_vetoes sending begins sent, fun f rx s sent sending begins start gaps errs => ?_,
    fun rx s out silent => shlDrives_released out silent⟩
  · obtain ⟨same, restF, restG, cellsF, cellsG⟩ := frames_first_difference lower
    have loses : contest (frameCells g) ((frameCells f).map nominalCell) = .lost := by rw [cellsF, cellsG, contest_nominal_lost]
    have errs : contest (frameCells f) ((frameCells g).map nominalCell) = .bitError := by rw [cellsF, cellsG, contest_nominal_bitError]
    obtain ⟨station, vetoes⟩ := loser_vetoes_nothing fitsF loses
    exact ⟨contest_nominal_self _, loses, errs, (survivor_vetoes_nothing f).1, station, vetoes⟩
  · obtain ⟨station, vetoes⟩ := flipped_cell_vetoed cell
    exact ⟨station, vetoes s sent⟩
  · rw [shlDrives_of_survivor sent]
    refine ⟨by rw [List.length_cons, List.length_mapIdx, Nat.add_comm], rfl, fun k b cell => ?_⟩
    rw [List.getElem?_cons_succ, List.getElem?_mapIdx, cell]
    rfl
  · have contested := (errsIn_iff f rx).1 errs
    have fate : senderFate s.wire.tx rx = some .bitError := by
      rw [sent, senderFate_of_begins sending begins, contested, ite_self]
    exact shlDrives_of_bitError sent sending start gaps fate contested

end Sys2Proof.Machine
end

section
/-! PROOFS. The veto: which frames a party vetoes, what it drives for each, and what a vetoed frame leaves (R60, R73, R79, R88 to R95). -/

namespace Sys2Proof.Machine

-- Proofs in parallel threads reserve more address space than the check's memory limit admits.
set_option Elab.async false

/-! ### A vetoed frame at its sender and at a party (R60, R92, R95) -/

theorem requeue_eq (q : TxQueue) : q.requeue =
    { join := if q.join = .onLine then .waiting else q.join
      leave := if q.leave = .onLine then .waiting else q.leave
      demand := match q.demand with
        | .onLine _ => .waiting
        | .waiting => .waiting
        | .empty => .empty
      reports := q.reports, reportOnLine := false } := by
  obtain ⟨join, demand, leave, reports, onLine⟩ := q
  cases join <;> cases demand <;> cases leave <;> rfl

theorem exec_frameVetoed {s : State} (takes : s.takesLine = true) (rx : Reception) :
    exec (.frameVetoed rx) s = .next (s.lineEnds.vetoWindow (stationVetoes s.wire.tx rx)).settle := by
  simp only [exec, execFrameVetoed, takes, if_true, vetoes_of_takesLine takes]

theorem windowVetoed_iff (lastEdge : Nat) (drives : List Drive) :
    windowVetoed lastEdge drives = true ↔
      ∃ d ∈ drives, (d.start ≤ lastEdge + 15000 ∧ lastEdge + 15000 < d.stop) ∨ (d.start ≤ lastEdge + 25000 ∧ lastEdge + 25000 < d.stop) := by
  simp only [windowVetoed, lineLow, Bool.or_eq_true, List.any_eq_true, decide_eq_true_eq, ← exists_or, ← and_or_left]

/-! ### What a receiver drives for cells at their nominal times (R91) -/

/-- A run of cells whose number is not the one that its length field reckons is no frame (R88). -/
theorem readFrame_of_count {cells : List Bool} (count : cells.length ≠ reckonedCells (bitsToNat ((cells.drop 8).take 4))) :
    readFrame cells = none := if_pos count

/-- A receiver drives nothing for a good frame, and its one veto drive for a bad one (R79, R91). -/
theorem shlDrives_receiver {s : State} (takes : s.takesLine = true) {cells : List Bool} (nonempty : cells ≠ []) :
    s.shlDrives (waveformOf false cells) =
      if readFrame cells = none then
        [(receiverVeto (waveformOf false cells)).1.drive (receiverVeto (waveformOf false cells)).2]
      else [] := by
  have fate : senderFate s.wire.tx (waveformOf false cells) = none := rfl
  have vetoes : s.vetoes (waveformOf false cells) = (readFrame cells).isNone := by
    rw [vetoes_of_takesLine takes, stationVetoes_of_no_sender fate, (beginsFrame_iff _).2 (begins_waveformOf nonempty),
      receiverFindsBad_waveformOf, Bool.true_and]
  unfold State.shlDrives
  rw [vetoes, fate]
  cases readFrame cells <;> rfl

theorem edges_nominal_getD {cells : List Bool} {k : Nat} (inside : k < cells.length) :
    (edgesFrom 22500 (cells.map nominalCell)).getD k 0 = cellEdge k := by
  have edge := edgesFrom_getElem? (gap_waveformOf (sending := false) (cells := cells)) 0 (i := k) (by simpa [waveformOf] using inside)
  rw [Nat.zero_add] at edge
  rw [List.getD_eq_getElem?_getD, show (22500 : Nat) = cellEdge 0 from rfl]
  exact congrArg (Option.getD · 0) edge

theorem edges_nominal_getLastD {cells : List Bool} (nonempty : cells ≠ []) :
    (edgesFrom 22500 (cells.map nominalCell)).getLastD 0 = cellEdge (cells.length - 1) := by
  have last := edges_nominal_getD (k := cells.length - 1) (Nat.sub_one_lt (List.length_pos_iff.2 nonempty).ne')
  rw [← last, List.getLastD_eq_getLast?, List.getLast?_eq_getElem?, edgesFrom_length, List.length_map, List.getD_eq_getElem?_getD]

theorem timingFault_nominal_take (cells : List Bool) (n : Nat) : timingFault ((cells.map nominalCell).take n) = false := by
  rw [← List.map_take, timingFault_nominal]

/-- Cells as many as reckoned: the fault is known before the window (R91). -/
theorem receiverVeto_of_whole {cells : List Bool} (nonempty : cells ≠ []) (reckoned : reckonedFrom cells = some cells.length) :
    receiverVeto (waveformOf false cells) = (.beforeWindow, cellEdge (cells.length - 1)) := by
  have last := edges_nominal_getD (k := cells.length - 1) (Nat.sub_one_lt (List.length_pos_iff.2 nonempty).ne')
  simp only [receiverVeto, waveformOf, dataCells_nominal, map_sampleCell_nominal, reckoned, lt_irrefl, if_false, last]

/-- Cells that end early, with no fault in the fields received whole: known when they end (R91). -/
theorem receiverVeto_of_short {cells : List Bool} (nonempty : cells ≠ []) (short : ∀ n, reckonedFrom cells = some n → cells.length < n)
    (fields : fieldFault cells = false) : receiverVeto (waveformOf false cells) = (.cellsEnded, cellEdge (cells.length - 1)) := by
  simp only [receiverVeto, waveformOf, dataCells_nominal, map_sampleCell_nominal, timingFault_nominal_take, fields,
    edges_nominal_getLastD nonempty]
  cases reckoned : reckonedFrom cells with
  | none => rfl
  | some n =>
    simp only [if_pos (short n reckoned)]
    rfl

/-- A good frame's cells that run on: known on the first edge after them (R91). -/
theorem receiverVeto_of_long {cells : List Bool} {n : Nat} {f : Frame} (reckoned : reckonedFrom cells = some n) (long : n < cells.length)
    (good : readFrame (cells.take n) = some f) :
    receiverVeto (waveformOf false cells) = (.onEdge (cellEdge n), cellEdge (n - 1)) := by
  have before := edges_nominal_getD (k := n - 1) ((Nat.sub_le n 1).trans_lt long)
  simp only [receiverVeto, waveformOf, dataCells_nominal, map_sampleCell_nominal, timingFault_nominal_take, reckoned,
    if_neg (Nat.not_lt.2 long.le), if_pos long, good, edges_nominal_getD long, before]
  rfl

/-! ### The length field of a frame, whole or cut, run on, or with a cell wrong elsewhere (R88) -/

/-- Cells with the length field of a frame in range reckon that frame's cells. -/
theorem reckonedFrom_of_lengthField {f : Frame} (fits : frameInRange f = true) {cells : List Bool} (header : 12 ≤ cells.length)
    (field : (cells.drop 8).take 4 = ((frameCells f).drop 8).take 4) : reckonedFrom cells = some (frameCells f).length := by
  rw [reckonedFrom, if_neg (Nat.not_lt.2 header), field, lengthField_eq fits, Laws.frameCells_length]

theorem twenty_le_length (f : Frame) : 20 ≤ (frameCells f).length := by
  rw [Laws.frameCells_length, reckonedCells]
  omega

/-- Bytes in range complete the payload of every kind and length that a frame in range has. -/
theorem readPayload_fillBytes {p : Payload} (fits : payloadInRange p = true) :
    ∃ q, readPayload (kindCode p).toNat (fillBytes (kindCode p).toNat (payloadBytes p).length []) = some q ∧ payloadInRange q = true := by
  cases p with
  | leave b => exact ⟨_, rfl, rfl⟩
  | join b => exact ⟨_, rfl, rfl⟩
  | demand b => exact ⟨_, rfl, rfl⟩
  | query b => exact ⟨_, rfl, rfl⟩
  | report b =>
    obtain ⟨requester, record⟩ := b
    cases record <;> exact ⟨_, rfl, rfl⟩
  | unassigned kind bytes =>
    have blank : payloadInRange (.unassigned kind (List.replicate bytes.length 0)) = true := by simpa [payloadInRange] using fits
    cases kind <;> exact ⟨_, rfl, blank⟩

/-- The cells of a frame in range cut off in their header or just behind it show no fault in the fields received whole (R89). -/
theorem fieldFault_take {f : Frame} (fits : frameInRange f = true) {k : Nat} (early : k < 20) : fieldFault ((frameCells f).take k) = false := by
  obtain ⟨sender, payload⟩ := Bool.and_eq_true_iff.1 fits
  obtain ⟨kindField, senderField, -, -⟩ := frameCells_fields f
  have count := twenty_le_length f
  have length : ((frameCells f).take k).length = k := by rw [List.length_take]; omega
  have none_whole : (k - 12) / 8 = 0 := by omega
  unfold fieldFault
  simp only [length, none_whole, Nat.zero_min, Bool.or_eq_false_iff, Bool.and_eq_false_imp, decide_eq_true_eq]
  refine ⟨fun received => ?_, fun received => ?_⟩
  · have field : (((frameCells f).take k).drop 3).take 5 = bitsOf f.sender := by
      rw [← senderField, List.drop_take, List.take_take, Nat.min_eq_left (by omega)]
    rw [field, bitsToNat_bitsOf]
    exact beq_false_of_ne fun zero => bne_iff_ne.1 sender (BitVec.eq_of_toNat_eq zero)
  · have kind : ((frameCells f).take k).take 3 = bitsOf (kindCode f.payload) := by
      rw [← kindField, List.take_take, Nat.min_eq_left (by omega)]
    have field : (((frameCells f).take k).drop 8).take 4 = ((frameCells f).drop 8).take 4 := by
      rw [List.drop_take, List.take_take, Nat.min_eq_left (by omega)]
    obtain ⟨q, read, inRange⟩ := readPayload_fillBytes payload
    simp only [kind, field, bitsToNat_bitsOf, lengthField_eq fits, Nat.not_lt_zero, false_and, and_false, if_false, readBytes, read, inRange,
      Bool.not_true]

/-! ### What a receiver drives for the cells of a frame, one wrong, cut off or run on (R91) -/

theorem lengthField_set {cells : List Bool} {k : Nat} (b : Bool) (outside : k < 8 ∨ 12 ≤ k) :
    ((cells.set k b).drop 8).take 4 = (cells.drop 8).take 4 := by
  rcases outside with before | behind
  · rw [List.drop_set_of_lt before]
  · rw [List.drop_set, if_neg (by omega), List.take_set, List.set_eq_of_length_le]
    rw [List.length_take]
    omega

/-- One cell wrong outside the length field: a drive known before the window (R91). -/
theorem shlDrives_of_wrong_cell {f : Frame} {s : State} (fits : frameInRange f = true) (takes : s.takesLine = true) {k : Nat} {b : Bool}
    (cell : (frameCells f)[k]? = some b) (outside : k < 8 ∨ 12 ≤ k) :
    s.shlDrives (waveformOf false ((frameCells f).set k (!b))) =
      [{ start := cellEdge ((frameCells f).length - 1) + 10000, stop := cellEdge ((frameCells f).length - 1) + 30000 }] := by
  have count := twenty_le_length f
  have bad := singleCellErrorRefused f k b fits cell
  have length : ((frameCells f).set k (!b)).length = (frameCells f).length := List.length_set
  have nonempty : (frameCells f).set k (!b) ≠ [] := List.ne_nil_of_length_pos (by omega)
  have reckoned := reckonedFrom_of_lengthField fits (by omega) (lengthField_set (!b) outside)
  rw [shlDrives_receiver takes nonempty, if_pos bad, receiverVeto_of_whole nonempty (by rw [reckoned, length]), length]
  rfl

/-- The cells cut off before the 20th: a drive known when they end (R91). -/
theorem shlDrives_of_cut {f : Frame} {s : State} (fits : frameInRange f = true) (takes : s.takesLine = true) {k : Nat} (begun : 1 ≤ k)
    (early : k < 20) :
    s.shlDrives (waveformOf false ((frameCells f).take k)) = [{ start := cellEdge (k - 1) + 11000, stop := cellEdge (k - 1) + 30000 }] := by
  have length : ((frameCells f).take k).length = k := List.length_take_of_le (early.le.trans (twenty_le_length f))
  have nonempty : (frameCells f).take k ≠ [] := List.ne_nil_of_length_pos (by rwa [length])
  have short : ∀ m, reckonedFrom ((frameCells f).take k) = some m → ((frameCells f).take k).length < m := by
    intro m reckoned
    unfold reckonedFrom at reckoned
    split_ifs at reckoned
    cases reckoned
    rw [length, reckonedCells]
    omega
  have bad : readFrame ((frameCells f).take k) = none := by
    refine readFrame_of_count ?_
    rw [length, reckonedCells]
    omega
  rw [shlDrives_receiver takes nonempty, if_pos bad, receiverVeto_of_short nonempty short (fieldFault_take fits early), length]
  rfl

/-- One cell more than the frame's: a drive from its edge (R91). -/
theorem shlDrives_of_run_on {f : Frame} {s : State} (fits : frameInRange f = true) (takes : s.takesLine = true) (b : Bool) :
    s.shlDrives (waveformOf false (frameCells f ++ [b])) =
      [{ start := cellEdge (frameCells f).length, stop := cellEdge (frameCells f).length + 20000 }] := by
  have count := twenty_le_length f
  have length : (frameCells f ++ [b]).length = (frameCells f).length + 1 := List.length_append
  have nonempty : frameCells f ++ [b] ≠ [] := List.ne_nil_of_length_pos (by omega)
  have field : ((frameCells f ++ [b]).drop 8).take 4 = ((frameCells f).drop 8).take 4 := by
    rw [List.drop_append_of_le_length (by omega), List.take_append_of_le_length (by rw [List.length_drop]; omega)]
  have reckoned := reckonedFrom_of_lengthField fits (by omega) field
  have bad : readFrame (frameCells f ++ [b]) = none := by
    refine readFrame_of_count ?_
    rw [field, lengthField_eq fits, ← Laws.frameCells_length, length]
    exact Nat.succ_ne_self _
  have good : readFrame ((frameCells f ++ [b]).take (frameCells f).length) = some f := by
    rw [List.take_left, readFrame_frameCells fits]
  rw [shlDrives_receiver takes nonempty, if_pos bad, receiverVeto_of_long reckoned (by omega) good]
  rfl

/-! ### The obligation -/

/-- A sender on whose line nothing fell has a bit error, wherever it would have looked for its first cell (R87, R98; log 29). -/
theorem senderFate_of_dead_line (f : Frame) {rx : Reception} (sending : rx.sending = true) (low : rx.startLow = 0) (empty : rx.cells = []) :
    senderFate (some f) rx = some .bitError := by
  have run : strayRun rx = false := Bool.eq_false_iff.2 fun stray => ((strayRun_iff rx).1 stray).1.ne' low
  obtain ⟨bit, bits, cells⟩ := List.exists_cons_of_ne_nil (frameCells_ne_nil f)
  simp only [senderFate, sending, run, empty, dataCells, cells, contest, Bool.false_eq_true, if_false, ite_self]

/-- Settles O43: the queue and the count by the judgement of the station; the judgement by the reception; a receiver's drive by how many of the
reckoned cells came. -/
theorem vetoedFrame : Obligations.VetoedFrame := by
  refine ⟨requeue_eq, fun rx s inv takes => ⟨_, exec_frameVetoed takes rx, fun silent => ?_, fun vetoes => ?_, fun vetoes => ?_⟩,
    fun tx rx receiver => ?_, fun tx rx s low stray => ?_, fun f rx s sent sending low empty => ?_,
    fun f s fits takes => ⟨?_, fun k b => shlDrives_of_wrong_cell fits takes, fun k => shlDrives_of_cut fits takes,
      shlDrives_of_run_on fits takes⟩, windowVetoed_iff⟩
  · rw [silent]
    exact settled_of_eq (vetoWindow_false s)
  · rw [vetoes]
    exact (ownVeto_settled inv).1
  · rw [vetoes]
    exact (ownVeto_settled inv).2
  · rw [stationVetoes_receiver tx receiver, Bool.and_eq_true, beginsFrame_iff, receiverFindsBad_iff]
  · have fate (tx : Option Frame) := senderFate_strayRun tx ((strayRun_iff rx).2 ⟨low, stray⟩)
    have station (tx : Option Frame) : stationVetoes tx rx = false := by
      rw [stationVetoes_of_no_sender (fate tx), Bool.eq_false_iff.2 (mt (beginsFrame_iff rx).1 stray), Bool.false_and]
    exact ⟨station tx, vetoes_eq_false (by rw [fate]; nofun) (station _)⟩
  · have fate := senderFate_of_dead_line f sending low empty
    exact ⟨stationVetoes_of_bitError fate, vetoes_of_bitError (by rw [sent, fate])⟩
  · rw [shlDrives_receiver takes (frameCells_ne_nil f), readFrame_frameCells fits]
    rfl

end Sys2Proof.Machine
end
